-- ==== Sys2Proof/Word.lean ====
section
/-! DEFINITION. The words of the block: a 64-bit limb or window word, and a byte of the host's bus. -/

namespace Sys2Proof

/-- A limb, and the data of one window access: 64 bits (R8, W = 64; R53). -/
abbrev Word := BitVec 64

/-- One byte lane of the host's bus (R53). -/
abbrev Byte := BitVec 8

end Sys2Proof
end

