-- ==== Sys2Proof/Syntax.lean ====
section
/-! DEFINITION. The seven commands (R2, R84), their opcodes and their operands. -/

namespace Sys2Proof

/-- The index of an element register, E0 to E15 (R20, R83). -/
abbrev Reg := Fin 16

/-- The operation a command selects (R84); the latency of a command depends on it and on N only (R240). -/
inductive Op where
  | fmul | fred | ffrom | fmul3 | fmul5 | fmul13 | fbfly
deriving DecidableEq, Repr

/-- A command, in the operand order of R89: RD, RA, RB. -/
inductive Instr where
  /-- Multiply: E[rd] receives the Montgomery product of E[ra] and E[rb] (R124). -/
  | fmul (rd ra rb : Reg)
  /-- Reduce in place (R106). -/
  | fred (rd : Reg)
  /-- FromMontgomery in place (R128). -/
  | ffrom (rd : Reg)
  /-- Multiply by 3 in place (R142). -/
  | fmul3 (rd : Reg)
  /-- Multiply by 5 in place (R143). -/
  | fmul5 (rd : Reg)
  /-- Multiply by 13 in place (R144). -/
  | fmul13 (rd : Reg)
  /-- Butterfly: E[rd] and E[ra] receive their sum and difference (R161). -/
  | fbfly (rd ra : Reg)
deriving DecidableEq, Repr

/-- The operation of a command. -/
def Instr.op : Instr → Op
  | .fmul _ _ _ => .fmul
  | .fred _ => .fred
  | .ffrom _ => .ffrom
  | .fmul3 _ => .fmul3
  | .fmul5 _ => .fmul5
  | .fmul13 _ => .fmul13
  | .fbfly _ _ => .fbfly

end Sys2Proof
end

