-- ==== Sys2Proof/Config.lean ====
section
/-! DEFINITION. What one instance of the block fixes (N, Q, BASE), what the spec leaves open for it (LAT), and the
free values (ANY). Nothing here is evaluated: each open parameter is a constant without a body. -/

namespace Sys2Proof

/-- The limb count N: 5, 6 or 10 (R8). -/
inductive LimbCount where
  | five | six | ten
deriving DecidableEq, Repr, Inhabited

/-- N as a number. -/
def LimbCount.toNat : LimbCount → Nat
  | .five => 5
  | .six => 6
  | .ten => 10

/-- The hardwired constants of an instance (R8, R9, R36): the limb count, the modulus and the window's base address,
with the constraints R9 and R8 put on them. QINV0 and ID are computed from these. -/
structure Inst where
  /-- N (R8). -/
  limbs : LimbCount
  /-- Q (R8). -/
  q : Nat
  /-- BASE (R8, R50). -/
  base : Nat
  odd : q % 2 = 1
  three_le : 3 ≤ q
  q_lt : q < 2 ^ (64 * limbs.toNat - 1)
  aligned : base % 4096 = 0
deriving DecidableEq, Repr

/-- N of an instance. -/
abbrev Inst.n (c : Inst) : Nat := c.limbs.toNat

namespace Config

/-- The limb count of the machine of `State.reset`: not in the spec (R8, log 1). -/
opaque limbCount : LimbCount

/-- Picks the modulus of the machine of `State.reset`, through `build`: not in the spec (R8, log 1). -/
opaque modulusSeed : Nat

/-- Picks the base address of the machine of `State.reset`, through `build`: not in the spec (R8, log 1). -/
opaque windowPage : Nat

/-- An admissible instance from unconstrained choices: the odd numbers from 3 to 2^(64N-1) - 1 (R9) and the multiples
of 4096 (R8), each reached by some choice (Laws/Config.lean). -/
def build (l : LimbCount) (seed page : Nat) : Inst where
  limbs := l
  q := 2 * (seed % (2 ^ (64 * l.toNat - 2) - 1)) + 3
  base := 4096 * page
  odd := by omega
  three_le := by omega
  q_lt := by
    have hk : 64 * l.toNat - 1 = (64 * l.toNat - 2) + 1 := by cases l <;> rfl
    have h1 : 1 < 2 ^ (64 * l.toNat - 2) := Nat.one_lt_two_pow (by cases l <;> decide)
    have h : 0 < 2 ^ (64 * l.toNat - 2) - 1 := by omega
    rw [hk, pow_succ']
    have := Nat.mod_lt seed h
    omega
  aligned := by omega

/-- The instance `State.reset` is the reset state of: an open parameter (R8, log 1). -/
def inst : Inst := build limbCount modulusSeed windowPage

/-- LAT less one: open (R8, R240, log 5). -/
opaque latencyLessOne : Op → LimbCount → Nat

/-- LAT(op, N), at least 1, a function of the operation and N only (R8, R19, R240). -/
def latency (op : Op) (l : LimbCount) : Nat := latencyLessOne op l + 1

/-- The k-th ANY(64-bit): unconstrained (R13, R23, R57, log 3). -/
opaque anyWord : Nat → Word

/-- The k-th ANY(N-limb): unconstrained, narrowed to N limbs where it is written (R13, R105, log 3). -/
opaque anyElem : Nat → Nat

end Config

end Sys2Proof
end

