-- ==== Sys2Proof/Machine/Limbs.lean ====
section
/-! DEFINITION. The datapath primitives on N-limb values (R100 to R104). An N-limb value is a natural number below
2^(64n); each function takes the limb count n. -/

namespace Sys2Proof.Machine

/-- Limb j of a value, v[64j+63 : 64j] (R12). -/
def limb (v j : Nat) : Nat := (v >>> (64 * j)) % 2 ^ 64

/-- SubBorrow (R101): the difference of limbs 0 to n-1 and the borrow out of limb n-1. -/
def subBorrow : Nat → Nat → Nat → Nat × Bool
  | 0, _, _ => (0, false)
  | n + 1, a, b =>
    let r := subBorrow n a b
    let d : Int := (limb a n : Int) - (limb b n : Int) - (r.2.toNat : Int)
    (r.1 + (d % 2 ^ 64).toNat * 2 ^ (64 * n), decide (d < 0))

/-- AddCarry (R102): the sum of limbs 0 to n-1 and the carry out of limb n-1. -/
def addCarry : Nat → Nat → Nat → Nat × Bool
  | 0, _, _ => (0, false)
  | n + 1, a, b =>
    let r := addCarry n a b
    let s := limb a n + limb b n + r.2.toNat
    (r.1 + s % 2 ^ 64 * 2 ^ (64 * n), s.testBit 64)

/-- Select (R103): limb by limb, x under the mask of c and y under its complement. -/
def select : Nat → Bool → Nat → Nat → Nat
  | 0, _, _, _ => 0
  | n + 1, c, x, y =>
    let mask := (2 ^ 64 - c.toNat) % 2 ^ 64
    select n c x y + ((limb x n &&& mask) ||| (limb y n &&& (2 ^ 64 - 1 - mask))) * 2 ^ (64 * n)

/-- Reduce (R104): v when v is below Q, else v - Q. -/
def reduce (c : Inst) (v : Nat) : Nat :=
  let r := subBorrow c.n v c.q
  select c.n r.2 v r.1

/-- One Newton step towards the inverse of q modulo 2^64. -/
def inverseStep (q x : Word) : Word := x * (2#64 - q * x)

/-- The inverse of an odd word modulo 2^64: q is its own inverse modulo 8, and each Newton step doubles the number of
correct bits (3, 6, 12, 24, 48, 96) (log 11). -/
def inverse64 (q : Word) : Word :=
  inverseStep q (inverseStep q (inverseStep q (inverseStep q (inverseStep q q))))

/-- QINV0 (R9, R27): (-Q⁻¹) mod 2^64, the word whose product with Q is 2^64 - 1 modulo 2^64. -/
def qinv0 (c : Inst) : Word := -inverse64 (BitVec.ofNat 64 c.q)

end Sys2Proof.Machine
end

