-- ==== Sys2Proof/WellFormed.lean ====
section
/-! DEFINITION. Which commands exist: the operand checks that the types of Syntax do not make. -/

namespace Sys2Proof

/-- The legal commands: a register index is below 16 by its type, and a butterfly names two different registers
(R85, R88). -/
def Instr.wf : Instr → Bool
  | .fmul _ _ _ => true
  | .fred _ => true
  | .ffrom _ => true
  | .fmul3 _ => true
  | .fmul5 _ => true
  | .fmul13 _ => true
  | .fbfly rd ra => decide (rd ≠ ra)

end Sys2Proof
end

