-- ==== Sys2Proof/Decode.lean ====
section
/-! DEFINITION. The command word (R80 to R86): decoding a 64-bit CMD value, rejecting by the error the spec names, and
encoding. -/

namespace Sys2Proof

/-- The errors of the command interface (R200). -/
inductive CmdError where
  | illegalOp | rsvdField | aliasPair | cmdBusy | ewriteBusy | badWrite
deriving DecidableEq, Repr

/-- The recorded code of an error (R200). -/
def CmdError.code : CmdError → BitVec 8
  | .illegalOp => 0x01#8
  | .rsvdField => 0x02#8
  | .aliasPair => 0x03#8
  | .cmdBusy => 0x04#8
  | .ewriteBusy => 0x05#8
  | .badWrite => 0x06#8

/-- The roles of the register fields (R82). -/
inductive Format where
  | r3 | r1 | r2
deriving DecidableEq, Repr

/-- FORMAT(op) of R84. -/
def Op.format : Op → Format
  | .fmul => .r3
  | .fred => .r1
  | .ffrom => .r1
  | .fmul3 => .r1
  | .fmul5 => .r1
  | .fmul13 => .r1
  | .fbfly => .r2

/-- The opcode number of R84. -/
def Op.code : Op → BitVec 4
  | .fmul => 0x1#4
  | .fred => 0x2#4
  | .ffrom => 0x3#4
  | .fmul3 => 0x4#4
  | .fmul5 => 0x5#4
  | .fmul13 => 0x6#4
  | .fbfly => 0x7#4

/-- The operation an OP field selects; none for 0x0 and 0x8 to 0xF (R84, R85). -/
def opOfCode (c : BitVec 4) : Option Op :=
  match c.toNat with
  | 0x1 => some .fmul
  | 0x2 => some .fred
  | 0x3 => some .ffrom
  | 0x4 => some .fmul3
  | 0x5 => some .fmul5
  | 0x6 => some .fmul13
  | 0x7 => some .fbfly
  | _ => none

/-- OP, bits 3:0 (R81). -/
def opField (v : Word) : BitVec 4 := v.extractLsb' 0 4

/-- RD, bits 7:4 (R81, R83). -/
def rdField (v : Word) : Reg := (v.extractLsb' 4 4).toFin

/-- RA, bits 11:8 (R81, R83). -/
def raField (v : Word) : Reg := (v.extractLsb' 8 4).toFin

/-- RB, bits 15:12 (R81, R83). -/
def rbField (v : Word) : Reg := (v.extractLsb' 12 4).toFin

/-- The command of an operation and the three register fields (R82). -/
def Op.build (op : Op) (rd ra rb : Reg) : Instr :=
  match op with
  | .fmul => .fmul rd ra rb
  | .fred => .fred rd
  | .ffrom => .ffrom rd
  | .fmul3 => .fmul3 rd
  | .fmul5 => .fmul5 rd
  | .fmul13 => .fmul13 rd
  | .fbfly => .fbfly rd ra

/-- The decode of a CMD value, with the order of the checks of R86 after CMD_BUSY (which depends on the state and is
made by `Machine.cmdWrite`). -/
def decode (v : Word) : Except CmdError Instr :=
  match opOfCode (opField v) with
  | none => .error .illegalOp
  | some op =>
    if v.extractLsb' 16 48 ≠ 0#48 then .error .rsvdField
    else if op.format = .r1 ∧ (raField v ≠ 0 ∨ rbField v ≠ 0) then .error .rsvdField
    else if op.format = .r2 ∧ rbField v ≠ 0 then .error .rsvdField
    else if op.format = .r2 ∧ rdField v = raField v then .error .aliasPair
    else .ok (op.build (rdField v) (raField v) (rbField v))

/-- RD of a command: every command has one (R82). -/
def Instr.rd : Instr → Reg
  | .fmul rd _ _ => rd
  | .fred rd => rd
  | .ffrom rd => rd
  | .fmul3 rd => rd
  | .fmul5 rd => rd
  | .fmul13 rd => rd
  | .fbfly rd _ => rd

/-- RA of a command, 0 where the format does not use it (R82). -/
def Instr.ra : Instr → Reg
  | .fmul _ ra _ => ra
  | .fred _ => 0
  | .ffrom _ => 0
  | .fmul3 _ => 0
  | .fmul5 _ => 0
  | .fmul13 _ => 0
  | .fbfly _ ra => ra

/-- RB of a command, 0 where the format does not use it (R82). -/
def Instr.rb : Instr → Reg
  | .fmul _ _ rb => rb
  | .fred _ => 0
  | .ffrom _ => 0
  | .fmul3 _ => 0
  | .fmul5 _ => 0
  | .fmul13 _ => 0
  | .fbfly _ _ => 0

/-- A register index as its 4-bit field (R83). -/
def regBits (r : Reg) : BitVec 4 := BitVec.ofNat 4 r.val

/-- The 64-bit CMD value of a command, {0, RSVD, RB, RA, RD, OP} (R81). -/
def encode (i : Instr) : Word :=
  0#48 ++ regBits i.rb ++ regBits i.ra ++ regBits i.rd ++ i.op.code

/-- The command the decoder reads from the `nbits` low bits of `w`, as a row of the opcode table numbers them; the
bits above are 0 (R80). -/
def decodeTableWord (nbits w : Nat) : Option Instr :=
  match decode (BitVec.ofNat 64 (w % 2 ^ nbits)) with
  | .ok i => some i
  | .error _ => none

end Sys2Proof
end

