-- ==== Sys2Proof/Machine/State.lean ====
section
/-! DEFINITION. The state of the block (R36, R37), the reasons a step can stop, and the state after reset. -/

namespace Sys2Proof.Machine

/-- The contents of an element register of `n` limbs: its 64n bits, limb 0 least significant (R12, R20), and, for each
limb, whether it has been written since reset (R23, the `none` of R37). -/
structure Elem (n : Nat) where
  /-- The bits. -/
  value : BitVec (64 * n)
  /-- Entry j: limb j has been written since reset. -/
  written : Vector Bool n
deriving DecidableEq, Repr

/-- A register no limb of which has been written since reset (R23); its bits are 0 (log 2). -/
def Elem.blank (n : Nat) : Elem n where
  value := 0#(64 * n)
  written := Vector.replicate n false

/-- What one cycle brings to the block from outside (R16, R50, R230). -/
inductive HostInput where
  /-- A read of `len` bytes at a host address (R54). -/
  | read (addr len : Nat)
  /-- A write of the bytes listed, the first at the lowest address (R53, R54). -/
  | write (addr : Nat) (bytes : List Byte)
  /-- No access in this cycle. -/
  | idle
  /-- The reset input is asserted in this cycle (R230). -/
  | reset
deriving DecidableEq, Repr

/-- Why the machine stops with a fault. -/
inductive Fault where
  /-- A host access at an address outside the window (R50): raised by `Machine.busRead` and `Machine.busWrite`. Such an
  access does not reach the block. Safe: the hardware goes on (log 7). -/
  | outsideWindow
deriving DecidableEq, Repr

/-- Why the machine has no next state. -/
inductive Refusal where
  /-- An arm of `exec` that has no meaning yet: raised by `Machine.exec` only. Safe. -/
  | notModelled (mnemonic : String)
  /-- A pending butterfly whose two registers are the same: raised by `Machine.execFbfly`. R85 refuses such a command
  at the CMD write, so none is ever pending. Safe (log 8). -/
  | aliasedButterfly
deriving DecidableEq, Repr

/-- The complete state of an instance (R36), and the model's own fields `wait`, `inputs`, `reply` and `draws`. -/
structure State where
  /-- The constants N, Q and BASE; ID and QINV0 are computed from them (R26 to R28, R36). -/
  inst : Inst
  /-- E0 to E15 (R20). -/
  regs : Vector (Elem inst.n) 16
  /-- STATUS.ERR (R29). -/
  err : Bool
  /-- STATUS.ERROVF (R29). -/
  errovf : Bool
  /-- STATUS.ERRCODE (R29). -/
  errcode : BitVec 8
  /-- PEND, the accepted command (R33); STATUS.BUSY is 1 exactly when there is one (R37, log 10). -/
  pend : Option Instr
  /-- Host cycles left before the pending command completes (R240, log 5). -/
  wait : Nat
  /-- What the next cycles bring from outside, oldest first (R69, log 6). -/
  inputs : List HostInput
  /-- The bytes the latest read returned, the first at the lowest address (R53, log 6). -/
  reply : List Byte
  /-- How many free values have been drawn (R13, log 3). -/
  draws : Nat
deriving DecidableEq, Repr

/-- The state after the reset input is released (R36, R230). -/
def State.reset : State where
  inst := Config.inst
  regs := Vector.replicate 16 (Elem.blank Config.inst.n)
  err := false
  errovf := false
  errcode := 0#8
  pend := none
  wait := 0
  inputs := []
  reply := []
  draws := 0

end Sys2Proof.Machine
end

