-- ==== Sys2Proof/Machine/Operands.lean ====
section
/-! DEFINITION. Reading and writing the element registers: whole values for commands, limbs for the host (R20, R22,
R23). The limb number n of a register's type is the instance's N. -/

namespace Sys2Proof.Machine

/-- Limb j of a register (R12). -/
def Elem.limb {n : Nat} (e : Elem n) (j : Nat) : Word := e.value.extractLsb' (64 * j) 64

/-- Whether limb j has been written since reset (R23). -/
def Elem.limbWritten {n : Nat} (e : Elem n) (j : Nat) : Bool := e.written.toList.getD j false

/-- No limb is undefined (R23, R105). -/
def Elem.defined {n : Nat} (e : Elem n) : Bool := e.written.toList.all (fun b => b)

/-- Limb j set to w, every other limb kept (R58). -/
def Elem.setLimb {n : Nat} (e : Elem n) (j : Nat) (w : Word) : Elem n where
  value :=
    (e.value &&& ~~~((BitVec.allOnes 64).setWidth (64 * n) <<< (64 * j))) ||| (w.setWidth (64 * n) <<< (64 * j))
  written := e.written.setIfInBounds j true

/-- A register that holds the N-limb value v, every limb written. -/
def Elem.ofValue (n v : Nat) : Elem n where
  value := BitVec.ofNat (64 * n) v
  written := Vector.replicate n true

/-- The contents of E[r] (R13). -/
def State.elem (s : State) (r : Reg) : Elem s.inst.n := s.regs.get r

/-- Limb j of E[r]. -/
def State.limb (s : State) (r : Reg) (j : Nat) : Word := (s.elem r).limb j

/-- Whether limb j of E[r] has been written since reset (R23). -/
def State.limbWritten (s : State) (r : Reg) (j : Nat) : Bool := (s.elem r).limbWritten j

/-- The value of E[r], as an integer (R11, R13). -/
def State.val (s : State) (r : Reg) : Nat := (s.elem r).value.toNat

/-- No limb of E[r] is undefined (R23). -/
def State.defined (s : State) (r : Reg) : Bool := (s.elem r).defined

/-- E[r] is in the domain of the commands that take canonical values: defined and below Q (R22, R105). -/
def State.canonical (s : State) (r : Reg) : Bool := s.defined r && decide (s.val r < s.inst.q)

/-- E[r] <- v, for a command (R13). -/
def State.writeReg (s : State) (r : Reg) (v : Nat) : State :=
  { s with regs := s.regs.set r (Elem.ofValue s.inst.n v) }

/-- Limb j of E[r] <- w, for the host (R58). -/
def State.writeLimb (s : State) (r : Reg) (j : Nat) (w : Word) : State :=
  { s with regs := s.regs.set r ((s.elem r).setLimb j w) }

/-- Every limb of every register undefined (R230). -/
def State.blankRegs (s : State) : State :=
  { s with regs := Vector.replicate 16 (Elem.blank s.inst.n) }

end Sys2Proof.Machine
end

