-- ==== Sys2Proof/Machine/Flags.lean ====
section
/-! DEFINITION. The words the host reads as STATUS, ID, QINV0 and Q[j] (R26 to R29), and the bytes of a word on the
bus (R53). The block has no condition flags (R25). -/

namespace Sys2Proof.Machine

/-- STATUS.BUSY (R29, R30, R37). -/
def State.busy (s : State) : Bool := s.pend.isSome

/-- STATUS as it reads: 48 zero bits, ERRCODE, 5 zero bits, ERROVF, ERR, BUSY (R29, R55). -/
def State.statusWord (s : State) : Word :=
  0#48 ++ s.errcode ++ 0#5 ++ BitVec.ofBool s.errovf ++ BitVec.ofBool s.err ++ BitVec.ofBool s.busy

/-- ID: 40 zero bits, VERSION 1, NREG 16, N (R26). -/
def idWord (c : Inst) : Word := 0#40 ++ 1#8 ++ 16#8 ++ BitVec.ofNat 8 c.n

/-- Q[j] (R28). -/
def modulusWord (c : Inst) (j : Nat) : Word := BitVec.ofNat 64 (limb c.q j)

/-- Byte k of a word: bits 8k+7 to 8k (R53). -/
def byteLane (v : Word) (k : Nat) : Byte := v.extractLsb' (8 * k) 8

/-- The eight bytes of a word on the bus, the byte at the lowest address first (R53). -/
def busBytes (v : Word) : List Byte := (List.range 8).map (byteLane v)

/-- The word of bytes on the bus, the first at the lowest address (R53). -/
def wordOfBytes (bs : List Byte) : Word :=
  bs.foldr (fun b v => v <<< 8 ||| b.setWidth 64) 0#64

end Sys2Proof.Machine
end

