-- ==== Sys2Proof/Machine/Ops.lean ====
section
/-! DEFINITION. The shared operations: recording an error (the block's only exceptions, R200, R202) and clearing it
(R59, R207), accepting a command and retiring it (R61, R63), free values (R13), reset (R230). -/

namespace Sys2Proof.Machine

/-- `raise CmdError(code)` (R202): the first error is kept, a later one only sets ERROVF; nothing else changes. -/
def State.raiseError (s : State) (e : CmdError) : State :=
  if s.err then { s with errovf := true } else { s with err := true, errcode := e.code }

/-- A write of v to STATUS (R59): bit 1 clears ERR, ERROVF and ERRCODE; else bit 2 clears ERROVF. This is the return
from an error (R207). -/
def State.clearErrors (s : State) (v : Word) : State :=
  if v.getLsbD 1 then { s with err := false, errovf := false, errcode := 0#8 }
  else if v.getLsbD 2 then { s with errovf := false }
  else s

/-- Acceptance (R61): PEND <- the command, BUSY <- 1; the command completes LAT cycles later (R240). -/
def State.accept (s : State) (i : Instr) : State :=
  { s with pend := some i, wait := Config.latency i.op s.inst.limbs - 1 }

/-- The last part of completion (R63): PEND <- empty, BUSY <- 0. -/
def State.retire (s : State) : State := { s with pend := none, wait := 0 }

/-- The next free value will be a new one (R13). -/
def State.countDraw (s : State) : State := { s with draws := s.draws + 1 }

/-- E[r] <- ANY(N-limb), one draw (R105). -/
def State.writeAny (s : State) (r : Reg) : State := (s.writeReg r (Config.anyElem s.draws)).countDraw

/-- The write of a command's destination: the result, or ANY(N-limb) where the sources are out of domain (R105). -/
def State.writeResult (s : State) (r : Reg) (result : Option Nat) : State :=
  match result with
  | some v => s.writeReg r v
  | none => s.writeAny r

/-- The data of a read, as bytes on the bus. -/
def State.answer (s : State) (bytes : List Byte) : State := { s with reply := bytes }

/-- The rest of the host's inputs, once the first has been taken. -/
def State.withInputs (s : State) (inputs : List HostInput) : State := { s with inputs := inputs }

/-- A host cycle passes (R240, log 5). -/
def State.tick (s : State) : State := { s with wait := s.wait - 1 }

/-- The reset input is asserted (R230): STATUS 0, PEND empty, every limb undefined; the constants stay. What is outside
the block (the host's later inputs and the data it has read) and the count of draws stay too (log 13). -/
def State.underReset (s : State) : State :=
  { s.blankRegs with err := false, errovf := false, errcode := 0#8, pend := none, wait := 0 }

end Sys2Proof.Machine
end

