-- ==== Sys2Proof/Machine/Butterfly.lean ====
section
/-! DEFINITION. The butterfly (R160, R161). -/

namespace Sys2Proof.Machine

/-- Bfly (R160): the reduced sum, and the difference with Q added back when the subtraction borrowed. -/
def bfly (c : Inst) (a b : Nat) : Nat × Nat :=
  let s := (addCarry c.n a b).1
  let d := subBorrow c.n a b
  let dq := (addCarry c.n d.1 c.q).1
  (reduce c s, select c.n d.2 dq d.1)

/-- `fbfly`: E[rd], E[ra] <- the sum and the difference of E[rd] and E[ra], both read before either is written (R63,
R161, R162); two independent draws out of domain (R105). One register for both results is no command (R85, log 8). -/
def execFbfly (rd ra : Reg) (s : State) : Host.Outcome State Fault Refusal :=
  if rd = ra then .refused .aliasedButterfly
  else
    let res := if s.canonical rd && s.canonical ra then some (bfly s.inst (s.val rd) (s.val ra)) else none
    .next ((s.writeResult rd (res.map Prod.fst)).writeResult ra (res.map Prod.snd)).retire

end Sys2Proof.Machine
end

