-- ==== Sys2Proof/Machine/Multiply.lean ====
section
/-! DEFINITION. The Montgomery multiplier and the FromMontgomery converter (R120 to R128). -/

namespace Sys2Proof.Machine

/-- RedcStep (R120): add the quotient digit times Q, and shift down one limb. -/
def redcStep (c : Inst) (t : Nat) : Nat :=
  let m := t % 2 ^ 64 * (qinv0 c).toNat % 2 ^ 64
  (t + m * c.q) / 2 ^ 64

/-- The accumulator T of R121 after the given number of passes. -/
def montMulPasses (c : Inst) (a b : Nat) : Nat → Nat
  | 0 => 0
  | i + 1 => redcStep c (montMulPasses c a b i + a * limb b i)

/-- MontMul (R121). -/
def montMul (c : Inst) (a b : Nat) : Nat := reduce c (montMulPasses c a b c.n)

/-- T of R126 after the given number of reduction micro-steps. -/
def fromMontPasses (c : Inst) (v : Nat) : Nat → Nat
  | 0 => v
  | i + 1 => redcStep c (fromMontPasses c v i)

/-- FromMont (R126). -/
def fromMont (c : Inst) (v : Nat) : Nat := reduce c (fromMontPasses c v c.n)

/-- The limbs of an N-limb value, limb 0 first (R12). -/
def limbsOf (n v : Nat) : List Nat := (List.range n).map (limb v)

/-- The value of limbs, limb 0 first (R12). -/
def valOf : List Nat → Nat
  | [] => 0
  | l :: ls => l + 2 ^ 64 * valOf ls

/-- A carry chain of R123: t[j] + x_j * d + C for each j, giving the low words and the last carry. -/
def carryChain (d : Nat) : List Nat → List Nat → Nat → List Nat × Nat
  | t :: ts, x :: xs, carry =>
    let s := t + x * d + carry
    let r := carryChain d ts xs (s / 2 ^ 64)
    (s % 2 ^ 64 :: r.1, r.2)
  | _, _, carry => ([], carry)

/-- One pass of the limb-level schedule (R123) over the accumulator: limbs t[0..N-1] and the top limb t[N]. -/
def ciosPass (c : Inst) (a : List Nat) (bi : Nat) (t : List Nat × Nat) : List Nat × Nat :=
  let mac := carryChain bi t.1 a 0
  let top := (t.2 + mac.2) % 2 ^ 64
  let m := mac.1.headD 0 * (qinv0 c).toNat % 2 ^ 64
  let red := carryChain m mac.1 (limbsOf c.n c.q) 0
  let s := top + red.2
  (red.1.tail ++ [s % 2 ^ 64], s / 2 ^ 64)

/-- The accumulator of R123 after the given number of passes. -/
def ciosPasses (c : Inst) (a b : Nat) : Nat → List Nat × Nat
  | 0 => (List.replicate c.n 0, 0)
  | i + 1 => ciosPass c (limbsOf c.n a) (limb b i) (ciosPasses c a b i)

/-- MontMulLimbs (R123): the limb-level schedule, a second way to the value of `montMul`. -/
def montMulLimbs (c : Inst) (a b : Nat) : Nat := reduce c (valOf (ciosPasses c a b c.n).1)

/-- `fmul`: E[rd] <- MontMul(E[ra], E[rb]), in domain (R105, R124). -/
def execFmul (rd ra rb : Reg) (s : State) : Host.Outcome State Fault Refusal :=
  .next (s.writeResult rd
    (if s.canonical ra && s.canonical rb then some (montMul s.inst (s.val ra) (s.val rb)) else none)).retire

/-- `ffrom`: E[rd] <- FromMont(E[rd]), in domain (R105, R128). -/
def execFfrom (rd : Reg) (s : State) : Host.Outcome State Fault Refusal :=
  .next (s.writeResult rd (if s.canonical rd then some (fromMont s.inst (s.val rd)) else none)).retire

end Sys2Proof.Machine
end

