-- ==== Sys2Proof/Machine/Reduce.lean ====
section
/-! DEFINITION. The `fred` command (R106). -/

namespace Sys2Proof.Machine

/-- `fred`: E[rd] <- Reduce(E[rd]), for every defined value (R105, R106). -/
def execFred (rd : Reg) (s : State) : Host.Outcome State Fault Refusal :=
  .next (s.writeResult rd (if s.defined rd then some (reduce s.inst (s.val rd)) else none)).retire

end Sys2Proof.Machine
end

