-- ==== Sys2Proof/Machine/SmallConst.lean ====
section
/-! DEFINITION. The small-constant multipliers (R140 to R144). -/

namespace Sys2Proof.Machine

/-- Double (R140). -/
def double (c : Inst) (x : Nat) : Nat := reduce c (addCarry c.n x x).1

/-- AddX (R140). -/
def addX (c : Inst) (y x : Nat) : Nat := reduce c (addCarry c.n y x).1

/-- The reference chain of MulBy3 (R141). -/
def mulBy3 (c : Inst) (x : Nat) : Nat := addX c (double c x) x

/-- The reference chain of MulBy5 (R141). -/
def mulBy5 (c : Inst) (x : Nat) : Nat := addX c (double c (double c x)) x

/-- The reference chain of MulBy13 (R141). -/
def mulBy13 (c : Inst) (x : Nat) : Nat := addX c (double c (double c (addX c (double c x) x))) x

/-- `fmul3`: E[rd] <- 3 E[rd] mod Q, by the reference chain, in domain (R105, R141, R142). -/
def execFmul3 (rd : Reg) (s : State) : Host.Outcome State Fault Refusal :=
  .next (s.writeResult rd (if s.canonical rd then some (mulBy3 s.inst (s.val rd)) else none)).retire

/-- `fmul5`: E[rd] <- 5 E[rd] mod Q, by the reference chain, in domain (R105, R141, R143). -/
def execFmul5 (rd : Reg) (s : State) : Host.Outcome State Fault Refusal :=
  .next (s.writeResult rd (if s.canonical rd then some (mulBy5 s.inst (s.val rd)) else none)).retire

/-- `fmul13`: E[rd] <- 13 E[rd] mod Q, by the reference chain, in domain (R105, R141, R144). -/
def execFmul13 (rd : Reg) (s : State) : Host.Outcome State Fault Refusal :=
  .next (s.writeResult rd (if s.canonical rd then some (mulBy13 s.inst (s.val rd)) else none)).retire

end Sys2Proof.Machine
end

