-- ==== Sys2Proof/Machine/Dispatch.lean ====
section
/-! DEFINITION. The completion of a command (R63): one arm per command. -/

namespace Sys2Proof.Machine

def exec (i : Instr) (s : State) : Host.Outcome State Fault Refusal :=
  match i with
  | .fmul rd ra rb => Sys2Proof.Machine.execFmul rd ra rb s
  | .fred rd => Sys2Proof.Machine.execFred rd s
  | .ffrom rd => Sys2Proof.Machine.execFfrom rd s
  | .fmul3 rd => Sys2Proof.Machine.execFmul3 rd s
  | .fmul5 rd => Sys2Proof.Machine.execFmul5 rd s
  | .fmul13 rd => Sys2Proof.Machine.execFmul13 rd s
  | .fbfly rd ra => Sys2Proof.Machine.execFbfly rd ra s

end Sys2Proof.Machine
end

