-- ==== Sys2Proof/Machine/Window.lean ====
section
/-! DEFINITION. The host window (R50 to R62): its map, its reads and its writes, the accesses on the bus, and what one
host cycle does. -/

namespace Sys2Proof.Machine

/-- What an aligned window offset names (R52). -/
inductive Port where
  | id | status | cmd | qinv0
  | modulus (j : Nat)
  | element (r : Reg) (j : Nat)
  | reserved
deriving DecidableEq, Repr

/-- The window's map, for an offset that is a multiple of 8 (R52). -/
def portAt (n : Nat) (off : BitVec 12) : Port :=
  let o := off.toNat
  if o = 0x000 then .id
  else if o = 0x008 then .status
  else if o = 0x010 then .cmd
  else if o = 0x018 then .qinv0
  else if 0x100 ≤ o ∧ o < 0x100 + 8 * n then .modulus ((o - 0x100) / 8)
  else if 0x800 ≤ o ∧ (o - 0x800) % 0x80 < 8 * n then
    .element (Fin.ofNat 16 ((o - 0x800) / 0x80)) ((o - 0x800) % 0x80 / 8)
  else .reserved

/-- HostRead of an aligned 64-bit access (R55 to R57): the value, and the state, in which only the count of draws can
differ. -/
def State.hostRead (s : State) (off : BitVec 12) : Word × State :=
  match portAt s.inst.n off with
  | .id => (idWord s.inst, s)
  | .status => (s.statusWord, s)
  | .cmd => (0#64, s)
  | .qinv0 => (qinv0 s.inst, s)
  | .modulus j => (modulusWord s.inst j, s)
  | .element r j =>
    if s.busy || !s.limbWritten r j then (Config.anyWord s.draws, s.countDraw) else (s.limb r j, s)
  | .reserved => (0#64, s)

/-- A CMD write of v (R61, R86): CMD_BUSY first, then the checks of `decode`, then acceptance. -/
def State.cmdWrite (s : State) (v : Word) : State :=
  if s.busy then s.raiseError .cmdBusy
  else
    match decode v with
    | .error e => s.raiseError e
    | .ok i => s.accept i

/-- HostWrite of an aligned 64-bit access (R58 to R62). -/
def State.hostWrite (s : State) (off : BitVec 12) (v : Word) : State :=
  match portAt s.inst.n off with
  | .id => s.raiseError .badWrite
  | .status => s.clearErrors v
  | .cmd => s.cmdWrite v
  | .qinv0 => s.raiseError .badWrite
  | .modulus _ => s.raiseError .badWrite
  | .element r j => if s.busy then s.raiseError .ewriteBusy else s.writeLimb r j v
  | .reserved => s.raiseError .badWrite

/-- The window offset of a host address, where it is in the window (R50). -/
def windowOffset (c : Inst) (addr : Nat) : Option (BitVec 12) :=
  if c.base ≤ addr ∧ addr < c.base + 4096 then some (BitVec.ofNat 12 (addr - c.base)) else none

/-- The accesses the block defines: 64 bits at a multiple of 8 (R54). -/
def definedAccess (off : BitVec 12) (len : Nat) : Bool := decide (len = 8 ∧ off.toNat % 8 = 0)

/-- A read of `len` bytes at a host address (R50, R54): the bytes returned go to `reply`. -/
def State.busRead (s : State) (addr len : Nat) : Host.Outcome State Fault Refusal :=
  match windowOffset s.inst addr with
  | none => .fault .outsideWindow
  | some off =>
    if definedAccess off len then
      let r := s.hostRead off
      .next (r.2.answer (busBytes r.1))
    else .next (s.answer (List.replicate len 0#8))

/-- A write of bytes at a host address (R50, R54, R60). -/
def State.busWrite (s : State) (addr : Nat) (bytes : List Byte) : Host.Outcome State Fault Refusal :=
  match windowOffset s.inst addr with
  | none => .fault .outsideWindow
  | some off =>
    if definedAccess off bytes.length then .next (s.hostWrite off (wordOfBytes bytes))
    else .next (s.raiseError .badWrite)

/-- One host cycle (R16, R69): the first input is performed, whole, and a cycle of the pending command's latency
passes. With no input left the host is idle. -/
def State.hostCycle (s : State) : Host.Outcome State Fault Refusal :=
  match s.inputs with
  | [] => .next s.tick
  | .idle :: rest => .next (s.withInputs rest).tick
  | .read addr len :: rest => (s.withInputs rest).tick.busRead addr len
  | .write addr bytes :: rest => (s.withInputs rest).tick.busWrite addr bytes
  | .reset :: rest => .next (s.withInputs rest).underReset

end Sys2Proof.Machine
end

