-- ==== Sys2Proof/Machine/Schedule.lean ====
section
/-! DEFINITION. Which agent moves next (R16, R63, R205, R230), and the placing of a command where the next step runs
it. -/

namespace Sys2Proof.Machine

/-- Whether the reset input is asserted in the next cycle (R230). -/
def State.resetAsserted (s : State) : Bool := s.inputs.head? == some .reset

/-- The command that completes in the next step, if one does: it is pending, its latency has passed, and the reset
input is not asserted (R63, R230, R240). It goes before the host's access of the same cycle (R205). -/
def State.completing (s : State) : Option Instr :=
  if s.resetAsserted then none else if s.wait = 0 then s.pend else none

/-- s with the command value v placed so that the next step runs it: the command pending with its latency passed, and
no reset asserted (log 9). A value that is no command is presented as the host's next CMD write, with no command
pending, so that the next step records its error (R85, log 16). -/
def State.placeCommand (s : State) (v : Word) : State :=
  let inputs := s.inputs.dropWhile (fun x => x == .reset)
  match decode v with
  | .ok i => { s with pend := some i, wait := 0, inputs := inputs }
  | .error _ =>
    { s with pend := none, wait := 0, inputs := .write (s.inst.base + 0x010) (busBytes v) :: inputs }

end Sys2Proof.Machine
end

