-- ==== Sys2Proof/Machine/Step.lean ====
section
/-! DEFINITION. One step of the machine: a completion, or one host cycle (R16, R205). -/

namespace Sys2Proof.Machine

/-- One step: the completion of the pending command when its time has come (R63), else one host cycle (R69). -/
def step (s : State) : Host.Outcome State Fault Refusal :=
  match s.completing with
  | some i => exec i s
  | none => s.hostCycle

/-- s with the instruction of the `nbits` low bits of w placed where the next step runs it (log 9). -/
def State.withFetchWord (s : State) (nbits w : Nat) : State :=
  s.placeCommand (BitVec.ofNat 64 (w % 2 ^ nbits))

end Sys2Proof.Machine
end

