-- ==== Sys2Proof/Machine/HostProgram.lean ====
section
/-! DEFINITION. The notation of the spec's host programs as inputs of the machine (R91), and the assembler's words
(R21, R89, R90). None of it is part of the block (log 17). -/

namespace Sys2Proof.Machine

/-- `WR off, v` (R91). -/
def inputWR (c : Inst) (off : Nat) (v : Word) : HostInput := .write (c.base + off) (busBytes v)

/-- `RD off` (R91). -/
def inputRD (c : Inst) (off : Nat) : HostInput := .read (c.base + off) 8

/-- `LDE r, x` (R91): N writes, limb 0 first. -/
def inputLDE (c : Inst) (r : Reg) (x : Nat) : List HostInput :=
  (List.range c.n).map fun j => inputWR c (0x800 + 0x80 * r.val + 8 * j) (BitVec.ofNat 64 (limb x j))

/-- `STE r` (R91): N reads, limb 0 first. -/
def inputSTE (c : Inst) (r : Reg) : List HostInput :=
  (List.range c.n).map fun j => inputRD c (0x800 + 0x80 * r.val + 8 * j)

/-- `CMD <asm>` (R91). -/
def inputCMD (c : Inst) (i : Instr) : HostInput := inputWR c 0x010 (encode i)

/-- k turns of the `POLL` loop (R91): how many turns a host makes is the host's choice. -/
def inputPOLL (c : Inst) (k : Nat) : List HostInput := List.replicate k (inputRD c 0x008)

/-- `fsqr ed, ea` expands to `fmul ed, ea, ea` (R90). -/
def fsqr (rd ra : Reg) : Instr := .fmul rd ra ra

/-- The assembler names e0 to e15 (R21). -/
def regNames : List String :=
  ["e0", "e1", "e2", "e3", "e4", "e5", "e6", "e7", "e8", "e9", "e10", "e11", "e12", "e13", "e14", "e15"]

/-- The register a name refers to, if any (R21, R89). -/
def regOfName (name : String) : Option Reg :=
  if h : regNames.idxOf name < 16 then some ⟨regNames.idxOf name, h⟩ else none

/-- One command from its mnemonic and its operands, or none where the assembler refuses it (R89, R90). -/
def assemble (mnemonic : String) (operands : List String) : Option Instr :=
  match operands.mapM regOfName with
  | none => none
  | some [d] =>
    if mnemonic = "fred" then some (.fred d)
    else if mnemonic = "ffrom" then some (.ffrom d)
    else if mnemonic = "fmul3" then some (.fmul3 d)
    else if mnemonic = "fmul5" then some (.fmul5 d)
    else if mnemonic = "fmul13" then some (.fmul13 d)
    else none
  | some [d, a] =>
    if mnemonic = "fbfly" ∧ d ≠ a then some (.fbfly d a)
    else if mnemonic = "fsqr" then some (fsqr d a)
    else none
  | some [d, a, b] => if mnemonic = "fmul" then some (.fmul d a b) else none
  | some _ => none

/-- The assembler name of a register (R21). -/
def regName (r : Reg) : String := regNames.getD r.val ""

/-- The mnemonic of a command (R84). -/
def mnemonicOf : Instr → String
  | .fmul _ _ _ => "fmul"
  | .fred _ => "fred"
  | .ffrom _ => "ffrom"
  | .fmul3 _ => "fmul3"
  | .fmul5 _ => "fmul5"
  | .fmul13 _ => "fmul13"
  | .fbfly _ _ => "fbfly"

/-- The operands of a command, in the order RD, RA, RB (R89). -/
def operandsOf : Instr → List String
  | .fmul rd ra rb => [regName rd, regName ra, regName rb]
  | .fred rd => [regName rd]
  | .ffrom rd => [regName rd]
  | .fmul3 rd => [regName rd]
  | .fmul5 rd => [regName rd]
  | .fmul13 rd => [regName rd]
  | .fbfly rd ra => [regName rd, regName ra]

end Sys2Proof.Machine
end

