-- ==== Sys2Proof/Safety.lean ====
section
/-! DEFINITION. What claims are stated in: the invariants of a state, what a step keeps, and the run of a host program
with its result (R31, R33, R70, R243). -/

namespace Sys2Proof.Machine

/-- The invariants of STATUS (R31, R200): ERRCODE is 0 exactly when ERR is 0, ERROVF only with ERR, and no code above
0x06 is ever recorded. -/
def State.StatusInv (s : State) : Prop :=
  (s.errcode = 0#8 ↔ s.err = false) ∧ (s.errovf = true → s.err = true) ∧ s.errcode.toNat ≤ 6

/-- A pending command is a legal one (R33, R85); with none pending, no latency runs (log 5). -/
def State.PendInv (s : State) : Prop :=
  (∀ i, s.pend = some i → i.wf = true) ∧ (s.pend = none → s.wait = 0)

/-- The canonical form of the registers: the bits of a limb not written since reset are the reset value's, so that
equal registers are equal data (log 2). -/
def State.RegsInv (s : State) : Prop :=
  ∀ (r : Reg) (j : Nat), j < s.inst.n → s.limbWritten r j = false → s.limb r j = 0#64

/-- The invariant of the machine. -/
def State.Inv (s : State) : Prop := s.StatusInv ∧ s.PendInv ∧ s.RegsInv

/-- STATUS.ERR, ERROVF and ERRCODE are the same in both states. -/
def SameStatus (s t : State) : Prop := t.err = s.err ∧ t.errovf = s.errovf ∧ t.errcode = s.errcode

/-- E[r] is the same in both states: each limb's bits, and whether it has been written. -/
def SameReg (s t : State) (r : Reg) : Prop :=
  t.val r = s.val r ∧ ∀ j, t.limb r j = s.limb r j ∧ t.limbWritten r j = s.limbWritten r j

/-- Every element register is the same in both states. -/
def SameRegs (s t : State) : Prop := ∀ r, SameReg s t r

/-- The constants are the same in both states. -/
def SameConstants (s t : State) : Prop := t.inst = s.inst

/-- PEND and the latency left are the same in both states. -/
def SamePending (s t : State) : Prop := t.pend = s.pend ∧ t.wait = s.wait

/-- What is outside the block is the same in both states: the host's later inputs and the data it has read. -/
def SameHost (s t : State) : Prop := t.inputs = s.inputs ∧ t.reply = s.reply

/-- What the completion of a command with the given destinations leaves (R63, R202): the constants, STATUS less BUSY,
the host's side and every register that is no destination are unchanged; PEND is empty and BUSY is 0. -/
def Completes (s t : State) (dests : List Reg) : Prop :=
  SameConstants s t ∧ SameStatus s t ∧ SameHost s t ∧ t.pend = none ∧ t.busy = false ∧ t.wait = 0 ∧
    ∀ r, r ∉ dests → SameReg s t r

/-- E[r] holds the value v in t, every limb of it written. -/
def Holds (t : State) (r : Reg) (v : Nat) : Prop := t.defined r = true ∧ t.val r = v

/-- R, the Montgomery radix 2^(64N) (R8). -/
def radix (c : Inst) : Nat := 2 ^ (64 * c.n)

/-- The Montgomery encoding of x (R15). -/
def enc (c : Inst) (x : Nat) : Nat := x * radix c % c.q

/-- The block is quiescent: no command is pending (R243). -/
def State.quiescent (s : State) : Bool := s.pend.isNone

/-- An access of the host, of any width and address; an idle cycle and the reset pin are none. -/
def HostInput.isAccess : HostInput → Bool
  | .read _ _ => true
  | .write _ _ => true
  | .idle => false
  | .reset => false

/-- A CMD write: a 64-bit write at offset 0x010 of the window (R52, R61). -/
def HostInput.isCmdWrite (c : Inst) : HostInput → Bool
  | .write addr bytes => decide (addr = c.base + 0x010 ∧ bytes.length = 8)
  | .read _ _ => false
  | .idle => false
  | .reset => false

/-- The access that the next step performs, if it performs one (R69, R205). -/
def State.performing (s : State) : Option HostInput :=
  if s.completing.isSome then none else s.inputs.head?.filter HostInput.isAccess

/-- The step from p to q is a STATUS read that returned BUSY = 0 (R71, R243). -/
def PollReturnsIdle (p q : State) : Prop :=
  p.performing = some (.read (p.inst.base + 0x008) 8) ∧ step p = .next q ∧ (wordOfBytes q.reply).getLsbD 0 = false

/-- The host's run from s ends in t: the step to t performs the host's last access, and the result of the run is the
state t at that point (R243). -/
def RunEnds (s t : State) : Prop :=
  ∃ (k : Nat) (m : State), Host.Core.run Sys2Proof.core k s = .next m ∧ m.performing.isSome = true ∧ step m = .next t ∧
    ∀ x ∈ t.inputs, x.isAccess = false

/-- The result of the run from s may be read, and it is t (R243): the run reaches a STATUS read that returns BUSY = 0,
no CMD write follows that read, and the host's accesses from that read on end in t. That t is then quiescent is a
statement. -/
def RunResult (s t : State) : Prop :=
  ∃ (k : Nat) (p q : State), Host.Core.run Sys2Proof.core k s = .next p ∧ PollReturnsIdle p q ∧
    (∀ x ∈ q.inputs, x.isCmdWrite q.inst = false) ∧ RunEnds p t

/-- The run from s has the result t, and no access of it failed: ERR = 0 at its end, the premise of a claim about a
program (R203, R243). -/
def State.runSucceeded (s t : State) : Prop := RunResult s t ∧ t.err = false

/-- What the result of a run consists of: STATUS, and each limb of each element register that has been written since
reset (R243). -/
structure Observation where
  /-- STATUS as it reads. -/
  status : Word
  /-- Entry r, entry j: limb j of E[r], none where it has not been written. -/
  limbs : List (List (Option Word))
deriving DecidableEq, Repr

/-- The observable result in s; it says nothing of a limb never written, of the reply to an earlier read, or of time
(R243). -/
def State.observation (s : State) : Observation where
  status := s.statusWord
  limbs := (List.finRange 16).map fun r =>
    (List.range s.inst.n).map fun j => if s.limbWritten r j then some (s.limb r j) else none

/-- The sequential composition of commands, in order (R70). -/
def execAll : List Instr → State → Host.Outcome State Fault Refusal
  | [], s => .next s
  | i :: is, s =>
    match exec i s with
    | .next t => execAll is t
    | .fault e => .fault e
    | .refused e => .refused e

/-- The destination registers of a command (R82). -/
def destsOf : Instr → List Reg
  | .fmul rd _ _ => [rd]
  | .fred rd => [rd]
  | .ffrom rd => [rd]
  | .fmul3 rd => [rd]
  | .fmul5 rd => [rd]
  | .fmul13 rd => [rd]
  | .fbfly rd ra => [rd, ra]

/-- The sources of a command are in its domain (the table of R105). -/
def State.inDomain (s : State) : Instr → Bool
  | .fmul _ ra rb => s.canonical ra && s.canonical rb
  | .fred rd => s.defined rd
  | .ffrom rd => s.canonical rd
  | .fmul3 rd => s.canonical rd
  | .fmul5 rd => s.canonical rd
  | .fmul13 rd => s.canonical rd
  | .fbfly rd ra => s.canonical rd && s.canonical ra

/-- The window offset of limb j of E[r] (R51). -/
def elementOffset (r : Reg) (j : Nat) : Nat := 0x800 + 0x80 * r.val + 8 * j

/-- Every input left is an access of the window or an idle cycle: no reset, no address outside (R50, R230). -/
def State.inputsInWindow (s : State) : Prop :=
  ∀ x ∈ s.inputs, match x with
    | .read addr _ => s.inst.base ≤ addr ∧ addr < s.inst.base + 4096
    | .write addr _ => s.inst.base ≤ addr ∧ addr < s.inst.base + 4096
    | .idle => True
    | .reset => False

end Sys2Proof.Machine
end

