-- ==== Sys2Proof/Certificates/Slice0/Obligations.lean ====
section
/-! DEFINITION. The statements for the provers: what the rules of the spec say the machine does. -/

open Sys2Proof Sys2Proof.Machine

/-! ## Reset -/

/-- R36, R230: the state after reset. What the registers' bits are there is the model's choice (log 2) and not stated. -/
def Obligations.ResetStateIsTheSpecsResetState : Prop :=
  State.reset.inst = Config.inst ∧ State.reset.busy = false ∧ State.reset.err = false ∧
    State.reset.errovf = false ∧ State.reset.errcode = 0#8 ∧ State.reset.statusWord = 0#64 ∧
    State.reset.pend = none ∧ ∀ (r : Reg) (j : Nat), State.reset.limbWritten r j = false

/-- R230: from every state, also with a command pending and due, a cycle with the reset input asserted gives STATUS 0,
PEND empty and every limb undefined, and neither an access nor a completion is performed. That the pin is one entry of
the inputs, taken in one step, and that the reply stays is the model's choice (log 6, log 13). -/
def Obligations.ResetInputAbandonsThePendingCommand : Prop :=
  ∀ (s : State) (rest : List HostInput), s.inputs = .reset :: rest →
    ∃ t, step s = .next t ∧ t.inst = s.inst ∧ t.pend = none ∧ t.busy = false ∧ t.err = false ∧ t.errovf = false ∧
      t.errcode = 0#8 ∧ t.statusWord = 0#64 ∧ (∀ (r : Reg) (j : Nat), t.limbWritten r j = false) ∧
      t.inputs = rest ∧ t.reply = s.reply

/-! ## Invariants -/

/-- R31, R33: the reset state meets the invariant. -/
def Obligations.ResetMeetsTheInvariant : Prop := State.reset.Inv

/-- R31, R33: every step keeps the invariant: ERRCODE is 0 exactly when ERR is 0, ERROVF only with ERR, no code above
0x06; a pending command is a legal one; an unwritten limb keeps the bits of reset (the last is the model's own
canonical form, log 2). -/
def Obligations.EveryStepKeepsTheInvariant : Prop :=
  ∀ s t : State, s.Inv → step s = .next t → t.Inv

/-- R28, R60, R231: no step changes N, Q, BASE, and with them ID, QINV0 and every Q[j]. -/
def Obligations.NoStepChangesTheConstants : Prop :=
  ∀ s t : State, step s = .next t →
    t.inst = s.inst ∧ idWord t.inst = idWord s.inst ∧ qinv0 t.inst = qinv0 s.inst ∧
      ∀ j, modulusWord t.inst j = modulusWord s.inst j

/-- R20, R58, R63, R230: only three events change an element register: a reset, the completion of a command that names
it as a destination, and a 64-bit host write of one of its limbs while no command is pending. -/
def Obligations.RegistersChangeOnlyByTheseEvents : Prop :=
  ∀ (s t : State) (r : Reg), step s = .next t →
    SameReg s t r ∨ s.resetAsserted = true ∨ (∃ i, s.completing = some i ∧ r ∈ destsOf i) ∨
      ∃ bytes rest j, s.completing = none ∧ s.busy = false ∧ j < s.inst.n ∧ bytes.length = 8 ∧
        s.inputs = .write (s.inst.base + elementOffset r j) bytes :: rest ∧ t.limb r j = wordOfBytes bytes

/-- R31: ERR, ERROVF and ERRCODE change only by a host write or a reset: no completion, no read and no idle cycle
touches them. -/
def Obligations.ErrorStateChangesOnlyByWritesAndReset : Prop :=
  ∀ s t : State, step s = .next t →
    SameStatus s t ∨ s.resetAsserted = true ∨
      ∃ addr bytes rest, s.completing = none ∧ s.inputs = .write addr bytes :: rest

/-! ## Errors and STATUS -/

/-- R202: the first error is kept, a later one only sets ERROVF, and nothing else changes. -/
def Obligations.FirstErrorIsKept : Prop :=
  ∀ (s : State) (e : CmdError),
    (s.err = false → (s.raiseError e).err = true ∧ (s.raiseError e).errcode = e.code ∧
      (s.raiseError e).errovf = s.errovf) ∧
    (s.err = true → (s.raiseError e).errovf = true ∧ (s.raiseError e).err = true ∧
      (s.raiseError e).errcode = s.errcode) ∧
    SamePending s (s.raiseError e) ∧ (s.raiseError e).busy = s.busy ∧ SameRegs s (s.raiseError e) ∧
    SameConstants s (s.raiseError e) ∧ SameHost s (s.raiseError e) ∧ (s.raiseError e).draws = s.draws

/-- R59, R207: what a host write of v to STATUS clears, in every state, busy or not. -/
def Obligations.StatusWriteClearsErrors : Prop :=
  ∀ (s : State) (v : Word),
    (v.getLsbD 1 = true → (s.hostWrite 0x008#12 v).err = false ∧ (s.hostWrite 0x008#12 v).errovf = false ∧
      (s.hostWrite 0x008#12 v).errcode = 0#8) ∧
    (v.getLsbD 1 = false → (s.hostWrite 0x008#12 v).err = s.err ∧ (s.hostWrite 0x008#12 v).errcode = s.errcode ∧
      (s.hostWrite 0x008#12 v).errovf = (s.errovf && !v.getLsbD 2)) ∧
    (s.hostWrite 0x008#12 v).busy = s.busy ∧ SamePending s (s.hostWrite 0x008#12 v) ∧
    SameRegs s (s.hostWrite 0x008#12 v) ∧ SameConstants s (s.hostWrite 0x008#12 v) ∧
    SameHost s (s.hostWrite 0x008#12 v) ∧ (s.hostWrite 0x008#12 v).draws = s.draws

/-- R29: the places of the fields of STATUS, every other bit 0. -/
def Obligations.StatusWordHasItsFields : Prop :=
  ∀ s : State, s.statusWord.toNat =
    s.busy.toNat + 2 * s.err.toNat + 4 * s.errovf.toNat + 256 * s.errcode.toNat

/-- R26, R28: ID holds N, NREG = 16 and VERSION = 1; the words Q[0] to Q[N-1] are the limbs of Q. -/
def Obligations.ConstantWordsDescribeTheInstance : Prop :=
  ∀ c : Inst, (idWord c).toNat = c.n + 16 * 2 ^ 8 + 1 * 2 ^ 16 ∧
    valOf ((List.range c.n).map fun j => (modulusWord c j).toNat) = c.q

/-- R9, R27: QINV0 is the word with (Q · QINV0) mod 2^64 = 2^64 - 1, and the only one. -/
def Obligations.Qinv0IsTheInverseDigit : Prop :=
  ∀ c : Inst, c.q * (qinv0 c).toNat % 2 ^ 64 = 2 ^ 64 - 1 ∧
    ∀ x < 2 ^ 64, c.q * x % 2 ^ 64 = 2 ^ 64 - 1 → x = (qinv0 c).toNat

/-- R203: ERR = 1 stops nothing: whatever the error fields hold, a completion has the same outcome up to those fields,
and a legal command is accepted. -/
def Obligations.ErrorsDoNotStopTheBlock : Prop :=
  (∀ (s t : State) (i : Instr) (e o : Bool) (c : BitVec 8), exec i s = .next t →
    exec i { s with err := e, errovf := o, errcode := c } = .next { t with err := e, errovf := o, errcode := c }) ∧
  ∀ (s : State) (i : Instr) (e o : Bool) (c : BitVec 8), i.wf = true → s.pend = none →
    ({ s with err := e, errovf := o, errcode := c } : State).cmdWrite (encode i) =
      { s.cmdWrite (encode i) with err := e, errovf := o, errcode := c }

/-! ## The window -/

/-- R50, R53, R54, R69: a 64-bit write at an aligned offset of the window is performed whole, in one step, with its
bytes little-endian. -/
def Obligations.AStepPerformsAnAlignedWrite : Prop :=
  ∀ (s : State) (rest : List HostInput) (off : Nat) (v : Word), s.completing = none → off < 4096 → off % 8 = 0 →
    s.inputs = .write (s.inst.base + off) (busBytes v) :: rest →
    step s = .next ((s.withInputs rest).tick.hostWrite (BitVec.ofNat 12 off) v)

/-- R50, R53, R55, R69: a 64-bit read at an aligned offset of the window returns the bytes of the value, little-endian,
in one step, and changes nothing else but the count of draws. -/
def Obligations.AStepPerformsAnAlignedRead : Prop :=
  ∀ (s : State) (rest : List HostInput) (off : Nat), s.completing = none → off < 4096 → off % 8 = 0 →
    s.inputs = .read (s.inst.base + off) 8 :: rest →
    ∃ t, step s = .next t ∧
      t.reply = busBytes ((s.withInputs rest).tick.hostRead (BitVec.ofNat 12 off)).1 ∧
      wordOfBytes t.reply = ((s.withInputs rest).tick.hostRead (BitVec.ofNat 12 off)).1 ∧
      t.pend = s.pend ∧ t.busy = s.busy ∧ SameStatus s t ∧ SameRegs s t ∧ SameConstants s t ∧ t.inputs = rest

/-- R54: an access of another width, or at an offset that is no multiple of 8: a write is dropped and raises BAD_WRITE,
a read returns 0 in every byte and has no effect. That an access of no bytes counts as one of another width, and that
an access belongs to the offset of its first byte even where it runs past the window, is the model's (log 14, log 7). -/
def Obligations.UndefinedAccessesAreDropped : Prop :=
  (∀ (s : State) (off : Nat) (bytes : List Byte), off < 4096 → (bytes.length ≠ 8 ∨ off % 8 ≠ 0) →
    s.busWrite (s.inst.base + off) bytes = .next (s.raiseError .badWrite)) ∧
  ∀ (s : State) (off len : Nat), off < 4096 → (len ≠ 8 ∨ off % 8 ≠ 0) →
    s.busRead (s.inst.base + off) len = .next { s with reply := List.replicate len 0#8 }

/-- R55, R56, R57, R23: what an aligned read returns, at every offset. In a limb that may not be relied on (BUSY = 1, or
never written) the value is the next free one. -/
def Obligations.ReadsFollowTheMap : Prop :=
  ∀ s : State,
    s.hostRead 0x000#12 = (idWord s.inst, s) ∧ s.hostRead 0x008#12 = (s.statusWord, s) ∧
    s.hostRead 0x010#12 = (0#64, s) ∧ s.hostRead 0x018#12 = (qinv0 s.inst, s) ∧
    (∀ j < s.inst.n, s.hostRead (BitVec.ofNat 12 (0x100 + 8 * j)) = (modulusWord s.inst j, s)) ∧
    (∀ (r : Reg), ∀ j < s.inst.n, s.busy = false → s.limbWritten r j = true →
      s.hostRead (BitVec.ofNat 12 (elementOffset r j)) = (s.limb r j, s)) ∧
    (∀ (r : Reg), ∀ j < s.inst.n, s.busy = true ∨ s.limbWritten r j = false →
      s.hostRead (BitVec.ofNat 12 (elementOffset r j)) = (Config.anyWord s.draws, { s with draws := s.draws + 1 })) ∧
    ∀ off < 4096, off % 8 = 0 →
      (0x020 ≤ off ∧ off < 0x100) ∨ (0x100 + 8 * s.inst.n ≤ off ∧ off < 0x800) ∨
        (0x800 ≤ off ∧ 8 * s.inst.n ≤ (off - 0x800) % 0x80) →
      s.hostRead (BitVec.ofNat 12 off) = (0#64, s)

/-- R58: with no command pending, a write of limb j of E[r] sets that limb and changes nothing else. -/
def Obligations.LimbWriteSetsOneLimb : Prop :=
  ∀ (s : State) (r : Reg) (j : Nat) (v : Word), s.busy = false → j < s.inst.n →
    ∃ t, s.hostWrite (BitVec.ofNat 12 (elementOffset r j)) v = t ∧ t.limb r j = v ∧ t.limbWritten r j = true ∧
      (∀ k, k ≠ j → t.limb r k = s.limb r k ∧ t.limbWritten r k = s.limbWritten r k) ∧
      (∀ q, q ≠ r → SameReg s t q) ∧ SameStatus s t ∧ SamePending s t ∧ SameConstants s t ∧ SameHost s t ∧
      t.draws = s.draws

/-- R62: with a command pending, the write of a limb is dropped and raises EWRITE_BUSY; the register is unchanged. -/
def Obligations.LimbWriteWhileBusyIsDropped : Prop :=
  ∀ (s : State) (r : Reg) (j : Nat) (v : Word), s.busy = true → j < s.inst.n →
    s.hostWrite (BitVec.ofNat 12 (elementOffset r j)) v = s.raiseError .ewriteBusy ∧
      SameRegs s (s.hostWrite (BitVec.ofNat 12 (elementOffset r j)) v)

/-- R60, R204: a write of ID, of QINV0, of a Q[j] or of a reserved offset raises BAD_WRITE (0x06), also while a command
is pending. -/
def Obligations.WritesOfConstantsAndReservedOffsetsAreDropped : Prop :=
  ∀ (s : State) (off : Nat) (v : Word), off < 4096 → off % 8 = 0 →
    (off = 0x000 ∨ (0x018 ≤ off ∧ off < 0x800) ∨ (0x800 ≤ off ∧ 8 * s.inst.n ≤ (off - 0x800) % 0x80)) →
    s.hostWrite (BitVec.ofNat 12 off) v = s.raiseError .badWrite ∧ CmdError.badWrite.code = 0x06#8 ∧
      (s.hostWrite (BitVec.ofNat 12 off) v).inst = s.inst

/-- R12, R51, R53: an element is its limbs, least significant first, and its bytes stand in the window in little-endian
order of the whole integer. -/
def Obligations.ElementsAreLittleEndian : Prop :=
  ∀ (s : State) (r : Reg),
    s.val r = valOf ((List.range s.inst.n).map fun j => (s.limb r j).toNat) ∧
    ∀ j < s.inst.n, ∀ k < 8, (byteLane (s.limb r j) k).toNat = s.val r / 2 ^ (8 * (8 * j + k)) % 256

/-- R50: an address outside the window is not the block's; the model stops there (its own choice, log 7). -/
def Obligations.AddressesOutsideTheWindowStop : Prop :=
  ∀ (s : State) (addr len : Nat) (bytes : List Byte), addr < s.inst.base ∨ s.inst.base + 4096 ≤ addr →
    s.busRead addr len = .fault .outsideWindow ∧ s.busWrite addr bytes = .fault .outsideWindow

/-- R51, R58, R69: N writes of the limbs of x, one a cycle, leave E[r] = x and every other register as it was. -/
def Obligations.NLimbWritesLoadAnElement : Prop :=
  ∀ (s : State) (r : Reg) (x : Nat) (rest : List HostInput), s.pend = none → x < radix s.inst →
    s.inputs = inputLDE s.inst r x ++ rest →
    ∃ t : State, Host.Core.run Sys2Proof.core s.inst.n s = .next t ∧ Holds t r x ∧ (∀ q, q ≠ r → SameReg s t q) ∧
      SameStatus s t ∧ SameConstants s t ∧ t.pend = none ∧ t.inputs = rest

/-! ## Command words -/

/-- R81, R84, R85: decoding an encoded legal command gives it back, with every operand. -/
def Obligations.DecodingAnEncodedCommandGivesItBack : Prop :=
  ∀ i : Instr, i.wf = true → decode (encode i) = .ok i

/-- R80, R81, R85, R87: a CMD value that decodes to a command is the encoding of that command and of no other, and the
command is legal: reserved bits, unused fields and aliased butterflies decode to nothing. -/
def Obligations.OnlyEncodedCommandsDecode : Prop :=
  ∀ (v : Word) (i : Instr), decode v = .ok i → i.wf = true ∧ encode i = v

/-- R84: command words of the spec's own vectors, one of each family, decode to the commands they stand for. -/
def Obligations.SampleWordsDecode : Prop :=
  decode 0x2131#64 = .ok (.fmul 3 1 2) ∧ decode 0xf2#64 = .ok (.fred 15) ∧ decode 0x43#64 = .ok (.ffrom 4) ∧
    decode 0x54#64 = .ok (.fmul3 5) ∧ decode 0x65#64 = .ok (.fmul5 6) ∧ decode 0x76#64 = .ok (.fmul13 7) ∧
    decode 0x217#64 = .ok (.fbfly 1 2) ∧ decode 0x8891#64 = .ok (fsqr 9 8)

/-- R85, R86, R204: the error of every illegal CMD value, in the order of the checks, and CMD_BUSY before all of
them. -/
def Obligations.IllegalCommandsRaiseTheirErrorInOrder : Prop :=
  ∀ (s : State) (v : Word),
    (s.busy = true → s.cmdWrite v = s.raiseError .cmdBusy) ∧
    (s.busy = false → v.toNat % 16 = 0 ∨ 8 ≤ v.toNat % 16 → s.cmdWrite v = s.raiseError .illegalOp) ∧
    (s.busy = false → 1 ≤ v.toNat % 16 → v.toNat % 16 ≤ 7 → 2 ^ 16 ≤ v.toNat →
      s.cmdWrite v = s.raiseError .rsvdField) ∧
    (s.busy = false → 2 ≤ v.toNat % 16 → v.toNat % 16 ≤ 6 → v.toNat < 2 ^ 16 → 2 ^ 8 ≤ v.toNat →
      s.cmdWrite v = s.raiseError .rsvdField) ∧
    (s.busy = false → v.toNat % 16 = 7 → v.toNat < 2 ^ 16 → 2 ^ 12 ≤ v.toNat →
      s.cmdWrite v = s.raiseError .rsvdField) ∧
    (s.busy = false → v.toNat % 16 = 7 → v.toNat < 2 ^ 12 → v.toNat / 16 % 16 = v.toNat / 256 →
      s.cmdWrite v = s.raiseError .aliasPair)

/-- R61: a CMD write: an error is recorded and starts nothing; a legal command becomes pending, BUSY becomes 1, and no
register changes. The latency left is LAT less the cycle of the acceptance (R240). -/
def Obligations.CommandWriteAcceptsOrDrops : Prop :=
  ∀ (s : State) (v : Word), s.busy = false →
    (∀ e, decode v = .error e → s.hostWrite 0x010#12 v = s.raiseError e ∧
      (s.hostWrite 0x010#12 v).busy = false ∧ SamePending s (s.hostWrite 0x010#12 v) ∧
      SameRegs s (s.hostWrite 0x010#12 v)) ∧
    ∀ i, decode v = .ok i → (s.hostWrite 0x010#12 v).pend = some i ∧ (s.hostWrite 0x010#12 v).busy = true ∧
      (s.hostWrite 0x010#12 v).wait + 1 = Config.latency i.op s.inst.limbs ∧
      SameRegs s (s.hostWrite 0x010#12 v) ∧ SameStatus s (s.hostWrite 0x010#12 v) ∧
      SameConstants s (s.hostWrite 0x010#12 v) ∧ SameHost s (s.hostWrite 0x010#12 v)

/-- R21, R84, R89, R90: the assembler reads back every legal command, refuses a butterfly of one register, and expands
`fsqr`; the command word is (RB << 12) | (RA << 8) | (RD << 4) | OP. -/
def Obligations.AssemblerReadsEveryCommand : Prop :=
  (∀ i : Instr, i.wf = true → assemble (mnemonicOf i) (operandsOf i) = some i) ∧
  (∀ d : Reg, assemble "fbfly" [regName d, regName d] = none) ∧
  (∀ d a : Reg, assemble "fsqr" [regName d, regName a] = some (.fmul d a a)) ∧
  ∀ i : Instr, (encode i).toNat = i.rb.val * 4096 + i.ra.val * 256 + i.rd.val * 16 + i.op.code.toNat

/-! ## Steps -/

/-- R63, R205, R230: the step that completes a command is exec of it; and a command word placed where the next step runs
it runs as the command it decodes to, on the same registers, STATUS and constants (log 9). -/
def Obligations.AStepRunsTheDecodedCommand : Prop :=
  (∀ (s : State) (i : Instr), s.pend = some i → s.wait = 0 → s.inputs.head? ≠ some .reset → step s = exec i s) ∧
  ∀ (s : State) (nbits w : Nat) (i : Instr), decodeTableWord nbits w = some i →
    step (s.withFetchWord nbits w) = exec i (s.withFetchWord nbits w) ∧
      (s.withFetchWord nbits w).pend = some i ∧ SameRegs s (s.withFetchWord nbits w) ∧
      SameStatus s (s.withFetchWord nbits w) ∧ SameConstants s (s.withFetchWord nbits w)

/-- R62, R63, R216, R240: a pending command completes: after the cycles left of its latency, in which the host may make
any accesses of the window, the next step is its completion, and its sources are what they were. -/
def Obligations.APendingCommandCompletesAfterItsLatency : Prop :=
  ∀ (s : State) (i : Instr), s.pend = some i → s.inputsInWindow →
    ∃ t : State, Host.Core.run Sys2Proof.core s.wait s = .next t ∧ t.pend = some i ∧ t.wait = 0 ∧ SameRegs s t ∧
      SameConstants s t ∧ t.inputs = s.inputs.drop s.wait ∧ step t = exec i t

/-- R19, R241: when a command is accepted and when it completes, and every bit of STATUS, does not depend on the value
of any element register. -/
def Obligations.TimingAndStatusDoNotDependOnRegisters : Prop :=
  ∀ (s t : State) (regs : Vector (Elem s.inst.n) 16), step s = .next t →
    ∃ t', step { s with regs := regs } = .next t' ∧ t'.pend = t.pend ∧ t'.wait = t.wait ∧
      t'.statusWord = t.statusWord ∧ t'.inputs = t.inputs

/-- R64, R201: the completion of a legal command never fails and raises no error, whatever the registers hold; it
changes only its destinations, and leaves BUSY = 0. That a destination which received ANY counts as written is the
model's reading of R23 (log 4). -/
def Obligations.CompletionNeverFails : Prop :=
  ∀ (s : State) (i : Instr), i.wf = true →
    ∃ t, exec i s = .next t ∧ Completes s t (destsOf i) ∧ ∀ r ∈ destsOf i, t.defined r = true

/-- R66, R71: after a completion STATUS reads BUSY = 0, and a read of a destination limb returns the limb of the
result. For a destination which received ANY, that the read returns the value drawn at the completion, with no new draw,
is the model's reading of R23 (log 4). -/
def Obligations.ResultsAreReadableAfterCompletion : Prop :=
  ∀ (s t : State) (i : Instr) (r : Reg) (j : Nat), i.wf = true → exec i s = .next t → r ∈ destsOf i → j < s.inst.n →
    (t.hostRead 0x008#12).1.getLsbD 0 = false ∧
      t.hostRead (BitVec.ofNat 12 (elementOffset r j)) = (BitVec.ofNat 64 (limb (t.val r) j), t)

/-! ## The datapath -/

/-- R101: SubBorrow is the difference modulo 2^(64N), and its borrow is 1 exactly when a < b. -/
def Obligations.SubBorrowIsDifferenceAndComparison : Prop :=
  ∀ n a b : Nat, a < 2 ^ (64 * n) → b < 2 ^ (64 * n) →
    subBorrow n a b = ((a + 2 ^ (64 * n) - b) % 2 ^ (64 * n), decide (a < b))

/-- R102: AddCarry is the sum modulo 2^(64N), and its carry is 1 exactly when the sum is 2^(64N) or more. -/
def Obligations.AddCarryIsSumAndCarry : Prop :=
  ∀ n a b : Nat, a < 2 ^ (64 * n) → b < 2 ^ (64 * n) →
    addCarry n a b = ((a + b) % 2 ^ (64 * n), decide (2 ^ (64 * n) ≤ a + b))

/-- R103: the masked Select is x when c = 1 and y when c = 0. -/
def Obligations.SelectIsTheChoice : Prop :=
  ∀ (n x y : Nat) (c : Bool), x < 2 ^ (64 * n) → y < 2 ^ (64 * n) → select n c x y = if c then x else y

/-- R104: Reduce gives v when v < Q and v - Q otherwise, for every N-limb v. -/
def Obligations.ReduceSubtractsTheModulusOnce : Prop :=
  ∀ (c : Inst) (v : Nat), v < radix c → reduce c v = if v < c.q then v else v - c.q

/-- R107: below 2Q, Reduce is canonical, congruent and idempotent; from 2Q on it is not canonical and not idempotent. -/
def Obligations.ReduceIsIdempotentBelowTwiceTheModulus : Prop :=
  ∀ (c : Inst) (v : Nat), v < radix c →
    (v < 2 * c.q → reduce c v < c.q ∧ reduce c v % c.q = v % c.q ∧ reduce c v = v % c.q ∧
      reduce c (reduce c v) = reduce c v) ∧
    (2 * c.q ≤ v → c.q ≤ reduce c v ∧ reduce c (reduce c v) ≠ reduce c v) ∧ (v < c.q → reduce c v = v)

/-- R120: one reduction micro-step divides exactly by 2^64, and its result times 2^64 is congruent to its input. -/
def Obligations.RedcStepDividesExactly : Prop :=
  ∀ (c : Inst) (t : Nat), t < 2 ^ (64 * (c.n + 1)) →
    redcStep c t * 2 ^ 64 = t + t % 2 ^ 64 * (qinv0 c).toNat % 2 ^ 64 * c.q ∧
      redcStep c t * 2 ^ 64 % c.q = t % c.q

/-- R122: for canonical operands the accumulator stays below 2Q after every pass, and every value within a pass fits
in N+1 limbs. -/
def Obligations.AccumulatorStaysBelowTwiceTheModulus : Prop :=
  ∀ (c : Inst) (a b : Nat), a < c.q → b < c.q → ∀ i ≤ c.n,
    montMulPasses c a b i < 2 * c.q ∧
      montMulPasses c a b i + a * limb b i + (2 ^ 64 - 1) * c.q < 2 ^ (64 * (c.n + 1))

/-- R121: MontMul(a, b) is the canonical a·b·R⁻¹ mod Q: the one value below Q whose product with R is congruent to
a·b. -/
def Obligations.MontMulIsTheMontgomeryProduct : Prop :=
  ∀ (c : Inst) (a b : Nat), a < c.q → b < c.q →
    montMul c a b < c.q ∧ montMul c a b * radix c % c.q = a * b % c.q ∧
      ∀ x < c.q, x * radix c % c.q = a * b % c.q → x = montMul c a b

/-- R123, R18: the limb-level schedule computes the value of MontMul for every in-domain input. -/
def Obligations.LimbScheduleComputesMontMul : Prop :=
  ∀ (c : Inst) (a b : Nat), a < c.q → b < c.q → montMulLimbs c a b = montMul c a b

/-- R125: MontMul commutes, multiplies encodings, encodes by R² mod Q, and decodes by 1. -/
def Obligations.MontMulMultipliesEncodings : Prop :=
  ∀ (c : Inst) (x y : Nat), x < c.q → y < c.q →
    montMul c x y = montMul c y x ∧ montMul c x y < c.q ∧
      montMul c (enc c x) (enc c y) = enc c (x * y % c.q) ∧
      montMul c x (radix c * radix c % c.q) = enc c x ∧ montMul c (enc c x) 1 = x

/-- R124: the corner cases of the product: 0 on either side, the encoding of 1, and (Q - 1)². -/
def Obligations.MontMulCornerCases : Prop :=
  ∀ (c : Inst) (b : Nat), b < c.q →
    montMul c 0 b = 0 ∧ montMul c b 0 = 0 ∧ montMul c (radix c % c.q) b = b ∧
      montMul c (c.q - 1) (c.q - 1) * radix c % c.q = 1

/-- R126, R129: FromMont(v) is the canonical v·R⁻¹ mod Q, for every N-limb v; a command does not rely on this beyond
Q. -/
def Obligations.FromMontDecodes : Prop :=
  ∀ (c : Inst) (v : Nat), v < radix c →
    fromMont c v < c.q ∧ fromMont c v * radix c % c.q = v % c.q ∧
      ∀ x < c.q, x * radix c % c.q = v % c.q → x = fromMont c v

/-- R127: FromMont(v) = MontMul(v, 1), with the integer 1; the product with the encoding of one is v itself. -/
def Obligations.FromMontIsMontMulByOne : Prop :=
  ∀ (c : Inst) (v : Nat), v < c.q → fromMont c v = montMul c v 1 ∧ montMul c v (radix c % c.q) = v

/-- R141, R145: the chains of doublings and additions give 3x, 5x and 13x mod Q, and commute with encoding. -/
def Obligations.SmallConstantChainsMultiply : Prop :=
  ∀ (c : Inst) (x : Nat), x < c.q →
    mulBy3 c x = 3 * x % c.q ∧ mulBy5 c x = 5 * x % c.q ∧ mulBy13 c x = 13 * x % c.q ∧
      mulBy3 c (enc c x) = enc c (3 * x % c.q) ∧ mulBy5 c (enc c x) = enc c (5 * x % c.q) ∧
      mulBy13 c (enc c x) = enc c (13 * x % c.q)

/-- R160, R163: the butterfly is ((a + b) mod Q, (a - b) mod Q), both canonical, and commutes with encoding. -/
def Obligations.ButterflyIsSumAndDifference : Prop :=
  ∀ (c : Inst) (a b : Nat), a < c.q → b < c.q →
    bfly c a b = ((a + b) % c.q, if b ≤ a then a - b else a + c.q - b) ∧
      (bfly c a b).1 < c.q ∧ (bfly c a b).2 < c.q ∧
      bfly c (enc c a) (enc c b) = (enc c ((a + b) % c.q), enc c ((a + c.q - b) % c.q))

/-! ## The commands -/

/-- R124: `fmul` with canonical sources completes with the Montgomery product in E[rd], whatever registers coincide. -/
def Obligations.FmulWritesTheMontgomeryProduct : Prop :=
  ∀ (s : State) (rd ra rb : Reg), s.canonical ra = true → s.canonical rb = true →
    ∃ t, exec (.fmul rd ra rb) s = .next t ∧ Holds t rd (montMul s.inst (s.val ra) (s.val rb)) ∧
      t.val rd < s.inst.q ∧ t.val rd * radix s.inst % s.inst.q = s.val ra * s.val rb % s.inst.q ∧
      Completes s t [rd] ∧ t.draws = s.draws

/-- R106: `fred` of a defined register completes with v, or v - Q when v ≥ Q, for every N-limb v. -/
def Obligations.FredReducesEveryValue : Prop :=
  ∀ (s : State) (rd : Reg), s.defined rd = true →
    ∃ t, exec (.fred rd) s = .next t ∧
      Holds t rd (if s.val rd < s.inst.q then s.val rd else s.val rd - s.inst.q) ∧ Completes s t [rd] ∧
      t.draws = s.draws

/-- R128: `ffrom` of a canonical register completes with v·R⁻¹ mod Q. -/
def Obligations.FfromDecodesInPlace : Prop :=
  ∀ (s : State) (rd : Reg), s.canonical rd = true →
    ∃ t, exec (.ffrom rd) s = .next t ∧ Holds t rd (fromMont s.inst (s.val rd)) ∧ t.val rd < s.inst.q ∧
      t.val rd * radix s.inst % s.inst.q = s.val rd % s.inst.q ∧ Completes s t [rd] ∧ t.draws = s.draws

/-- R142, R143, R144: `fmul3`, `fmul5` and `fmul13` of a canonical register complete with k·x mod Q. -/
def Obligations.SmallConstantCommandsMultiply : Prop :=
  ∀ (s : State) (rd : Reg), s.canonical rd = true →
    (∃ t, exec (.fmul3 rd) s = .next t ∧ Holds t rd (3 * s.val rd % s.inst.q) ∧ Completes s t [rd] ∧
      t.draws = s.draws) ∧
    (∃ t, exec (.fmul5 rd) s = .next t ∧ Holds t rd (5 * s.val rd % s.inst.q) ∧ Completes s t [rd] ∧
      t.draws = s.draws) ∧
    ∃ t, exec (.fmul13 rd) s = .next t ∧ Holds t rd (13 * s.val rd % s.inst.q) ∧ Completes s t [rd] ∧
      t.draws = s.draws

/-- R161, R162: `fbfly` of two different canonical registers completes with their sum in E[rd] and their difference in
E[ra], both from the old values. -/
def Obligations.FbflyWritesSumAndDifference : Prop :=
  ∀ (s : State) (rd ra : Reg), rd ≠ ra → s.canonical rd = true → s.canonical ra = true →
    ∃ t, exec (.fbfly rd ra) s = .next t ∧ Holds t rd ((s.val rd + s.val ra) % s.inst.q) ∧
      Holds t ra ((s.val rd + s.inst.q - s.val ra) % s.inst.q) ∧ Completes s t [rd, ra] ∧ t.draws = s.draws

/-- R85, R88: a butterfly of one register has no meaning; the model refuses it by name (its own choice, log 8). -/
def Obligations.ButterflyOfOneRegisterStops : Prop :=
  ∀ (s : State) (d : Reg), exec (.fbfly d d) s = .refused .aliasedButterfly

/-- R105: a command with a source outside its domain, or undefined, completes and writes a free value to each
destination, independently drawn (log 3). That the destination then counts as written is the model's reading of R23
(log 4). -/
def Obligations.OutOfDomainSourcesGiveFreeValues : Prop :=
  ∀ s : State,
    (∀ rd ra rb : Reg, (s.canonical ra && s.canonical rb) = false → ∃ t, exec (.fmul rd ra rb) s = .next t ∧
      Holds t rd (Config.anyElem s.draws % radix s.inst) ∧ Completes s t [rd] ∧ t.draws = s.draws + 1) ∧
    (∀ rd : Reg, s.defined rd = false → ∃ t, exec (.fred rd) s = .next t ∧
      Holds t rd (Config.anyElem s.draws % radix s.inst) ∧ Completes s t [rd] ∧ t.draws = s.draws + 1) ∧
    (∀ (rd : Reg) (i : Instr), s.canonical rd = false → i ∈ [.ffrom rd, .fmul3 rd, .fmul5 rd, .fmul13 rd] →
      ∃ t, exec i s = .next t ∧ Holds t rd (Config.anyElem s.draws % radix s.inst) ∧ Completes s t [rd] ∧
        t.draws = s.draws + 1) ∧
    ∀ rd ra : Reg, rd ≠ ra → (s.canonical rd && s.canonical ra) = false → ∃ t, exec (.fbfly rd ra) s = .next t ∧
      Holds t rd (Config.anyElem s.draws % radix s.inst) ∧
      Holds t ra (Config.anyElem (s.draws + 1) % radix s.inst) ∧ Completes s t [rd, ra] ∧ t.draws = s.draws + 2

/-- R238: in-domain commands give canonical results, so that chaining them keeps the precondition; `fred` does where its
input is below 2Q. -/
def Obligations.InDomainResultsAreCanonical : Prop :=
  ∀ (s t : State) (i : Instr), i.wf = true → s.inDomain i = true →
    (∀ rd, i = .fred rd → s.val rd < 2 * s.inst.q) → exec i s = .next t → ∀ r ∈ destsOf i, t.canonical r = true

/-! ## Runs of host programs -/

/-- R30, R71, R243: the result of a run is read from a quiescent state: after a STATUS read that returned BUSY = 0, with
no CMD write after it, no command is pending at the end of the run, and no access is left; and a run has one result. -/
def Obligations.RunResultsAreReadFromAQuiescentState : Prop :=
  ∀ s t : State, RunResult s t →
    t.quiescent = true ∧ t.statusWord.getLsbD 0 = false ∧ SameConstants s t ∧
      (∀ x ∈ t.inputs, x.isAccess = false) ∧ ∀ u, RunResult s u → u = t

/-- R70, R71, R243: a host program of legal commands, each written to CMD and polled long enough, has a result, and the
result's registers are those of the commands' meanings composed in order; no error is recorded. That LAT polls are long
enough is the model's counting of time (log 5). -/
def Obligations.CommandSequencesComposeInOrder : Prop :=
  ∀ (s : State) (prog : List (Instr × Nat)), prog ≠ [] → s.pend = none → s.err = false →
    (∀ x ∈ prog, x.1.wf = true ∧ Config.latency x.1.op s.inst.limbs ≤ x.2) →
    s.inputs = prog.flatMap (fun x => inputCMD s.inst x.1 :: inputPOLL s.inst x.2) →
    ∃ t u : State, execAll (prog.map Prod.fst) s = .next u ∧ s.runSucceeded t ∧
      t.observation.limbs = u.observation.limbs ∧ SameRegs u t ∧ SameStatus s t ∧ SameConstants s t
end

