-- ==== Sys2Proof/Laws/Config.lean ====
section
/-! SUPPORT. Every admissible instance is some choice of the open parameters (R8, R9), and the sizes of N. -/

namespace Sys2Proof

theorem LimbCount.toNat_pos (l : LimbCount) : 0 < l.toNat := by cases l <;> decide

theorem LimbCount.toNat_le (l : LimbCount) : l.toNat ≤ 10 := by cases l <;> decide

/-- 2Q fits in N limbs (R9). -/
theorem Inst.two_q_lt (c : Inst) : 2 * c.q < 2 ^ (64 * c.n) := by
  have hk : 64 * c.limbs.toNat = (64 * c.limbs.toNat - 1) + 1 := by cases c.limbs <;> rfl
  have := c.q_lt
  show 2 * c.q < 2 ^ (64 * c.limbs.toNat)
  rw [hk, pow_succ']
  omega

theorem Inst.q_lt_radix (c : Inst) : c.q < 2 ^ (64 * c.n) := by
  have := c.two_q_lt
  omega

theorem Inst.q_pos (c : Inst) : 0 < c.q := by
  have := c.three_le
  omega

/-- `Config.build` leaves out no admissible instance. -/
theorem Config.build_reaches_every_instance (c : Inst) : ∃ seed page, Config.build c.limbs seed page = c := by
  obtain ⟨l, q, b, hodd, hge, hlt, hal⟩ := c
  refine ⟨(q - 3) / 2, b / 4096, ?_⟩
  have hk : 64 * l.toNat - 1 = (64 * l.toNat - 2) + 1 := by cases l <;> rfl
  have hlt' : q < 2 * 2 ^ (64 * l.toNat - 2) := by
    have := hlt
    rw [hk, pow_succ'] at this
    exact this
  have hm : (q - 3) / 2 % (2 ^ (64 * l.toNat - 2) - 1) = (q - 3) / 2 := Nat.mod_eq_of_lt (by omega)
  simp only [Config.build, Inst.mk.injEq, true_and]
  exact ⟨by rw [hm]; omega, by omega⟩

end Sys2Proof
end

