-- ==== Sys2Proof/Laws/Decode.lean ====
section
/-! SUPPORT. The fields of a CMD value and the value of an encoded command as numbers (R81). -/

namespace Sys2Proof

theorem opField_toNat (v : Word) : (opField v).toNat = v.toNat % 16 := by
  simp [opField, BitVec.extractLsb'_toNat]

theorem rdField_val (v : Word) : (rdField v).val = v.toNat / 16 % 16 := by
  show (v.extractLsb' 4 4).toNat = _
  simp [BitVec.extractLsb'_toNat, Nat.shiftRight_eq_div_pow]

theorem raField_val (v : Word) : (raField v).val = v.toNat / 256 % 16 := by
  show (v.extractLsb' 8 4).toNat = _
  simp [BitVec.extractLsb'_toNat, Nat.shiftRight_eq_div_pow]

theorem rbField_val (v : Word) : (rbField v).val = v.toNat / 4096 % 16 := by
  show (v.extractLsb' 12 4).toNat = _
  simp [BitVec.extractLsb'_toNat, Nat.shiftRight_eq_div_pow]

/-- Bits 63:16 are zero exactly when the value is below 2^16. -/
theorem upperBits_eq_zero_iff (v : Word) : v.extractLsb' 16 48 = 0#48 ↔ v.toNat < 65536 := by
  rw [← BitVec.toNat_inj]
  simp only [BitVec.extractLsb'_toNat, Nat.shiftRight_eq_div_pow, BitVec.toNat_ofNat]
  have := v.isLt
  omega

theorem regBits_toNat (r : Reg) : (regBits r).toNat = r.val := by
  simp [regBits]

/-- The value of an encoded command: (RB << 12) | (RA << 8) | (RD << 4) | OP (R81). -/
theorem encode_toNat (i : Instr) :
    (encode i).toNat = i.rb.val * 4096 + i.ra.val * 256 + i.rd.val * 16 + i.op.code.toNat := by
  have hb := regBits_toNat i.rb
  have ha := regBits_toNat i.ra
  have hd := regBits_toNat i.rd
  have hc := i.op.code.isLt
  have h1 := i.rb.isLt
  have h2 := i.ra.isLt
  have h3 := i.rd.isLt
  simp only [encode, BitVec.toNat_append, hb, ha, hd, BitVec.toNat_ofNat, Nat.zero_mod, Nat.zero_shiftLeft, Nat.zero_or]
  rw [← Nat.shiftLeft_add_eq_or_of_lt (by omega), ← Nat.shiftLeft_add_eq_or_of_lt (by omega),
    ← Nat.shiftLeft_add_eq_or_of_lt (by omega)]
  simp only [Nat.shiftLeft_eq]
  omega

/-- OP values: the seven opcodes are 1 to 7 in the table's order, every other value selects nothing (R84, R85). -/
theorem opOfCode_eq_none_iff (c : BitVec 4) : opOfCode c = none ↔ c.toNat = 0 ∨ 8 ≤ c.toNat := by
  revert c
  decide

theorem opOfCode_code (op : Op) : opOfCode op.code = some op := by
  cases op <;> rfl

theorem code_of_opOfCode (c : BitVec 4) (op : Op) : opOfCode c = some op → op.code = c := by
  revert c
  cases op <;> decide

end Sys2Proof
end

