-- ==== Sys2Proof/Laws/Limbs.lean ====
section
/-! SUPPORT. Limbs of a value (R12): their range, how they make up the value, and lists of limbs. -/

namespace Sys2Proof.Machine

theorem limb_eq (v j : Nat) : limb v j = v / 2 ^ (64 * j) % 2 ^ 64 := by
  simp [limb, Nat.shiftRight_eq_div_pow]

theorem limb_lt (v j : Nat) : limb v j < 2 ^ 64 := by
  rw [limb_eq]
  exact Nat.mod_lt _ (by norm_num)

@[simp] theorem limb_zero_value (j : Nat) : limb 0 j = 0 := by simp [limb_eq]

/-- The low n+1 limbs are the low n limbs and limb n above them. -/
theorem mod_pow_succ (v n : Nat) :
    v % 2 ^ (64 * (n + 1)) = v % 2 ^ (64 * n) + limb v n * 2 ^ (64 * n) := by
  rw [limb_eq, show 64 * (n + 1) = 64 * n + 64 by ring, pow_add, Nat.mod_mul]
  ring

theorem pow_limb_succ (n : Nat) : 2 ^ (64 * (n + 1)) = 2 ^ 64 * 2 ^ (64 * n) := by
  rw [show 64 * (n + 1) = 64 + 64 * n by ring, pow_add]

@[simp] theorem limbsOf_length (n v : Nat) : (limbsOf n v).length = n := by simp [limbsOf]

theorem limbsOf_succ (n v : Nat) : limbsOf (n + 1) v = limbsOf n v ++ [limb v n] := by
  simp [limbsOf, List.range_succ]

theorem valOf_append (xs ys : List Nat) : valOf (xs ++ ys) = valOf xs + 2 ^ (64 * xs.length) * valOf ys := by
  induction xs with
  | nil => simp [valOf]
  | cons x xs ih =>
    rw [List.cons_append, valOf, valOf, ih, List.length_cons, pow_limb_succ]
    ring

/-- The limbs of an N-limb value make up the value (R12). -/
theorem valOf_limbsOf (n v : Nat) : valOf (limbsOf n v) = v % 2 ^ (64 * n) := by
  induction n with
  | zero => simp [limbsOf, valOf, Nat.mod_one]
  | succ n ih =>
    rw [limbsOf_succ, valOf_append, ih, mod_pow_succ]
    simp [valOf, Nat.mul_comm]

end Sys2Proof.Machine
end

