-- ==== Sys2Proof/Laws/State.lean ====
section
/-! SUPPORT. One lemma per field per update of State, and what the register accessors see of each update. -/

namespace Sys2Proof.Machine

variable (s : State)

section retire
@[simp] theorem State.retire_inst : s.retire.inst = s.inst := rfl
@[simp] theorem State.retire_regs : s.retire.regs = s.regs := rfl
@[simp] theorem State.retire_err : s.retire.err = s.err := rfl
@[simp] theorem State.retire_errovf : s.retire.errovf = s.errovf := rfl
@[simp] theorem State.retire_errcode : s.retire.errcode = s.errcode := rfl
@[simp] theorem State.retire_pend : s.retire.pend = none := rfl
@[simp] theorem State.retire_wait : s.retire.wait = 0 := rfl
@[simp] theorem State.retire_inputs : s.retire.inputs = s.inputs := rfl
@[simp] theorem State.retire_reply : s.retire.reply = s.reply := rfl
@[simp] theorem State.retire_draws : s.retire.draws = s.draws := rfl
@[simp] theorem State.retire_val (r' : Reg) : s.retire.val r' = s.val r' := rfl
@[simp] theorem State.retire_limb (r' : Reg) (j' : Nat) : s.retire.limb r' j' = s.limb r' j' := rfl
@[simp] theorem State.retire_limbWritten (r' : Reg) (j' : Nat) :
    s.retire.limbWritten r' j' = s.limbWritten r' j' := rfl
@[simp] theorem State.retire_defined (r' : Reg) : s.retire.defined r' = s.defined r' := rfl
@[simp] theorem State.retire_canonical (r' : Reg) : s.retire.canonical r' = s.canonical r' := rfl
@[simp] theorem State.retire_busy : s.retire.busy = false := rfl

end retire

section countDraw
@[simp] theorem State.countDraw_inst : s.countDraw.inst = s.inst := rfl
@[simp] theorem State.countDraw_regs : s.countDraw.regs = s.regs := rfl
@[simp] theorem State.countDraw_err : s.countDraw.err = s.err := rfl
@[simp] theorem State.countDraw_errovf : s.countDraw.errovf = s.errovf := rfl
@[simp] theorem State.countDraw_errcode : s.countDraw.errcode = s.errcode := rfl
@[simp] theorem State.countDraw_pend : s.countDraw.pend = s.pend := rfl
@[simp] theorem State.countDraw_wait : s.countDraw.wait = s.wait := rfl
@[simp] theorem State.countDraw_inputs : s.countDraw.inputs = s.inputs := rfl
@[simp] theorem State.countDraw_reply : s.countDraw.reply = s.reply := rfl
@[simp] theorem State.countDraw_draws : s.countDraw.draws = s.draws + 1 := rfl
@[simp] theorem State.countDraw_val (r' : Reg) : s.countDraw.val r' = s.val r' := rfl
@[simp] theorem State.countDraw_limb (r' : Reg) (j' : Nat) : s.countDraw.limb r' j' = s.limb r' j' := rfl
@[simp] theorem State.countDraw_limbWritten (r' : Reg) (j' : Nat) :
    s.countDraw.limbWritten r' j' = s.limbWritten r' j' := rfl
@[simp] theorem State.countDraw_defined (r' : Reg) : s.countDraw.defined r' = s.defined r' := rfl
@[simp] theorem State.countDraw_canonical (r' : Reg) : s.countDraw.canonical r' = s.canonical r' := rfl
@[simp] theorem State.countDraw_busy : s.countDraw.busy = s.busy := rfl

end countDraw

section tick
@[simp] theorem State.tick_inst : s.tick.inst = s.inst := rfl
@[simp] theorem State.tick_regs : s.tick.regs = s.regs := rfl
@[simp] theorem State.tick_err : s.tick.err = s.err := rfl
@[simp] theorem State.tick_errovf : s.tick.errovf = s.errovf := rfl
@[simp] theorem State.tick_errcode : s.tick.errcode = s.errcode := rfl
@[simp] theorem State.tick_pend : s.tick.pend = s.pend := rfl
@[simp] theorem State.tick_wait : s.tick.wait = s.wait - 1 := rfl
@[simp] theorem State.tick_inputs : s.tick.inputs = s.inputs := rfl
@[simp] theorem State.tick_reply : s.tick.reply = s.reply := rfl
@[simp] theorem State.tick_draws : s.tick.draws = s.draws := rfl
@[simp] theorem State.tick_val (r' : Reg) : s.tick.val r' = s.val r' := rfl
@[simp] theorem State.tick_limb (r' : Reg) (j' : Nat) : s.tick.limb r' j' = s.limb r' j' := rfl
@[simp] theorem State.tick_limbWritten (r' : Reg) (j' : Nat) :
    s.tick.limbWritten r' j' = s.limbWritten r' j' := rfl
@[simp] theorem State.tick_defined (r' : Reg) : s.tick.defined r' = s.defined r' := rfl
@[simp] theorem State.tick_canonical (r' : Reg) : s.tick.canonical r' = s.canonical r' := rfl
@[simp] theorem State.tick_busy : s.tick.busy = s.busy := rfl

end tick

section answer
@[simp] theorem State.answer_inst (bs : List Byte) : (s.answer bs).inst = s.inst := rfl
@[simp] theorem State.answer_regs (bs : List Byte) : (s.answer bs).regs = s.regs := rfl
@[simp] theorem State.answer_err (bs : List Byte) : (s.answer bs).err = s.err := rfl
@[simp] theorem State.answer_errovf (bs : List Byte) : (s.answer bs).errovf = s.errovf := rfl
@[simp] theorem State.answer_errcode (bs : List Byte) : (s.answer bs).errcode = s.errcode := rfl
@[simp] theorem State.answer_pend (bs : List Byte) : (s.answer bs).pend = s.pend := rfl
@[simp] theorem State.answer_wait (bs : List Byte) : (s.answer bs).wait = s.wait := rfl
@[simp] theorem State.answer_inputs (bs : List Byte) : (s.answer bs).inputs = s.inputs := rfl
@[simp] theorem State.answer_reply (bs : List Byte) : (s.answer bs).reply = bs := rfl
@[simp] theorem State.answer_draws (bs : List Byte) : (s.answer bs).draws = s.draws := rfl
@[simp] theorem State.answer_val (bs : List Byte) (r' : Reg) : (s.answer bs).val r' = s.val r' := rfl
@[simp] theorem State.answer_limb (bs : List Byte) (r' : Reg) (j' : Nat) : (s.answer bs).limb r' j' = s.limb r' j' := rfl
@[simp] theorem State.answer_limbWritten (bs : List Byte) (r' : Reg) (j' : Nat) :
    (s.answer bs).limbWritten r' j' = s.limbWritten r' j' := rfl
@[simp] theorem State.answer_defined (bs : List Byte) (r' : Reg) : (s.answer bs).defined r' = s.defined r' := rfl
@[simp] theorem State.answer_canonical (bs : List Byte) (r' : Reg) : (s.answer bs).canonical r' = s.canonical r' := rfl
@[simp] theorem State.answer_busy (bs : List Byte) : (s.answer bs).busy = s.busy := rfl

end answer

section withInputs
@[simp] theorem State.withInputs_inst (xs : List HostInput) : (s.withInputs xs).inst = s.inst := rfl
@[simp] theorem State.withInputs_regs (xs : List HostInput) : (s.withInputs xs).regs = s.regs := rfl
@[simp] theorem State.withInputs_err (xs : List HostInput) : (s.withInputs xs).err = s.err := rfl
@[simp] theorem State.withInputs_errovf (xs : List HostInput) : (s.withInputs xs).errovf = s.errovf := rfl
@[simp] theorem State.withInputs_errcode (xs : List HostInput) : (s.withInputs xs).errcode = s.errcode := rfl
@[simp] theorem State.withInputs_pend (xs : List HostInput) : (s.withInputs xs).pend = s.pend := rfl
@[simp] theorem State.withInputs_wait (xs : List HostInput) : (s.withInputs xs).wait = s.wait := rfl
@[simp] theorem State.withInputs_inputs (xs : List HostInput) : (s.withInputs xs).inputs = xs := rfl
@[simp] theorem State.withInputs_reply (xs : List HostInput) : (s.withInputs xs).reply = s.reply := rfl
@[simp] theorem State.withInputs_draws (xs : List HostInput) : (s.withInputs xs).draws = s.draws := rfl
@[simp] theorem State.withInputs_val (xs : List HostInput) (r' : Reg) : (s.withInputs xs).val r' = s.val r' := rfl
@[simp] theorem State.withInputs_limb (xs : List HostInput) (r' : Reg) (j' : Nat) : (s.withInputs xs).limb r' j' = s.limb r' j' := rfl
@[simp] theorem State.withInputs_limbWritten (xs : List HostInput) (r' : Reg) (j' : Nat) :
    (s.withInputs xs).limbWritten r' j' = s.limbWritten r' j' := rfl
@[simp] theorem State.withInputs_defined (xs : List HostInput) (r' : Reg) : (s.withInputs xs).defined r' = s.defined r' := rfl
@[simp] theorem State.withInputs_canonical (xs : List HostInput) (r' : Reg) : (s.withInputs xs).canonical r' = s.canonical r' := rfl
@[simp] theorem State.withInputs_busy (xs : List HostInput) : (s.withInputs xs).busy = s.busy := rfl

end withInputs

section accept
@[simp] theorem State.accept_inst (i : Instr) : (s.accept i).inst = s.inst := rfl
@[simp] theorem State.accept_regs (i : Instr) : (s.accept i).regs = s.regs := rfl
@[simp] theorem State.accept_err (i : Instr) : (s.accept i).err = s.err := rfl
@[simp] theorem State.accept_errovf (i : Instr) : (s.accept i).errovf = s.errovf := rfl
@[simp] theorem State.accept_errcode (i : Instr) : (s.accept i).errcode = s.errcode := rfl
@[simp] theorem State.accept_pend (i : Instr) : (s.accept i).pend = some i := rfl
@[simp] theorem State.accept_wait (i : Instr) : (s.accept i).wait = Config.latency i.op s.inst.limbs - 1 := rfl
@[simp] theorem State.accept_inputs (i : Instr) : (s.accept i).inputs = s.inputs := rfl
@[simp] theorem State.accept_reply (i : Instr) : (s.accept i).reply = s.reply := rfl
@[simp] theorem State.accept_draws (i : Instr) : (s.accept i).draws = s.draws := rfl
@[simp] theorem State.accept_val (i : Instr) (r' : Reg) : (s.accept i).val r' = s.val r' := rfl
@[simp] theorem State.accept_limb (i : Instr) (r' : Reg) (j' : Nat) : (s.accept i).limb r' j' = s.limb r' j' := rfl
@[simp] theorem State.accept_limbWritten (i : Instr) (r' : Reg) (j' : Nat) :
    (s.accept i).limbWritten r' j' = s.limbWritten r' j' := rfl
@[simp] theorem State.accept_defined (i : Instr) (r' : Reg) : (s.accept i).defined r' = s.defined r' := rfl
@[simp] theorem State.accept_canonical (i : Instr) (r' : Reg) : (s.accept i).canonical r' = s.canonical r' := rfl
@[simp] theorem State.accept_busy (i : Instr) : (s.accept i).busy = true := rfl

end accept

section writeReg
@[simp] theorem State.writeReg_inst (r : Reg) (v : Nat) : (s.writeReg r v).inst = s.inst := rfl
@[simp] theorem State.writeReg_regs (r : Reg) (v : Nat) : (s.writeReg r v).regs = s.regs.set r (Elem.ofValue s.inst.n v) := rfl
@[simp] theorem State.writeReg_err (r : Reg) (v : Nat) : (s.writeReg r v).err = s.err := rfl
@[simp] theorem State.writeReg_errovf (r : Reg) (v : Nat) : (s.writeReg r v).errovf = s.errovf := rfl
@[simp] theorem State.writeReg_errcode (r : Reg) (v : Nat) : (s.writeReg r v).errcode = s.errcode := rfl
@[simp] theorem State.writeReg_pend (r : Reg) (v : Nat) : (s.writeReg r v).pend = s.pend := rfl
@[simp] theorem State.writeReg_wait (r : Reg) (v : Nat) : (s.writeReg r v).wait = s.wait := rfl
@[simp] theorem State.writeReg_inputs (r : Reg) (v : Nat) : (s.writeReg r v).inputs = s.inputs := rfl
@[simp] theorem State.writeReg_reply (r : Reg) (v : Nat) : (s.writeReg r v).reply = s.reply := rfl
@[simp] theorem State.writeReg_draws (r : Reg) (v : Nat) : (s.writeReg r v).draws = s.draws := rfl
@[simp] theorem State.writeReg_busy (r : Reg) (v : Nat) : (s.writeReg r v).busy = s.busy := rfl

end writeReg

section writeLimb
@[simp] theorem State.writeLimb_inst (r : Reg) (j : Nat) (w : Word) : (s.writeLimb r j w).inst = s.inst := rfl
@[simp] theorem State.writeLimb_regs (r : Reg) (j : Nat) (w : Word) : (s.writeLimb r j w).regs = s.regs.set r ((s.elem r).setLimb j w) := rfl
@[simp] theorem State.writeLimb_err (r : Reg) (j : Nat) (w : Word) : (s.writeLimb r j w).err = s.err := rfl
@[simp] theorem State.writeLimb_errovf (r : Reg) (j : Nat) (w : Word) : (s.writeLimb r j w).errovf = s.errovf := rfl
@[simp] theorem State.writeLimb_errcode (r : Reg) (j : Nat) (w : Word) : (s.writeLimb r j w).errcode = s.errcode := rfl
@[simp] theorem State.writeLimb_pend (r : Reg) (j : Nat) (w : Word) : (s.writeLimb r j w).pend = s.pend := rfl
@[simp] theorem State.writeLimb_wait (r : Reg) (j : Nat) (w : Word) : (s.writeLimb r j w).wait = s.wait := rfl
@[simp] theorem State.writeLimb_inputs (r : Reg) (j : Nat) (w : Word) : (s.writeLimb r j w).inputs = s.inputs := rfl
@[simp] theorem State.writeLimb_reply (r : Reg) (j : Nat) (w : Word) : (s.writeLimb r j w).reply = s.reply := rfl
@[simp] theorem State.writeLimb_draws (r : Reg) (j : Nat) (w : Word) : (s.writeLimb r j w).draws = s.draws := rfl
@[simp] theorem State.writeLimb_busy (r : Reg) (j : Nat) (w : Word) : (s.writeLimb r j w).busy = s.busy := rfl

end writeLimb

section underReset
@[simp] theorem State.underReset_inst : s.underReset.inst = s.inst := rfl
@[simp] theorem State.underReset_regs : s.underReset.regs = Vector.replicate 16 (Elem.blank s.inst.n) := rfl
@[simp] theorem State.underReset_err : s.underReset.err = false := rfl
@[simp] theorem State.underReset_errovf : s.underReset.errovf = false := rfl
@[simp] theorem State.underReset_errcode : s.underReset.errcode = 0#8 := rfl
@[simp] theorem State.underReset_pend : s.underReset.pend = none := rfl
@[simp] theorem State.underReset_wait : s.underReset.wait = 0 := rfl
@[simp] theorem State.underReset_inputs : s.underReset.inputs = s.inputs := rfl
@[simp] theorem State.underReset_reply : s.underReset.reply = s.reply := rfl
@[simp] theorem State.underReset_draws : s.underReset.draws = s.draws := rfl
@[simp] theorem State.underReset_busy : s.underReset.busy = false := rfl

end underReset


end Sys2Proof.Machine
end

