-- ==== Sys2Proof/Laws/Registers.lean ====
section
/-! SUPPORT. Reading an element register after writing it: the same register or another, a limb or a whole value. -/

namespace Sys2Proof.Machine

variable {n : Nat}

theorem Elem.limb_toNat (e : Elem n) (j : Nat) : (e.limb j).toNat = Machine.limb e.value.toNat j := by
  simp [Elem.limb, Machine.limb, BitVec.extractLsb'_toNat]

theorem Elem.getLsbD_setLimb (e : Elem n) (j : Nat) (w : Word) (b : Nat) (hb : b < 64 * n) :
    (e.setLimb j w).value.getLsbD b =
      if 64 * j ≤ b ∧ b < 64 * j + 64 then w.getLsbD (b - 64 * j) else e.value.getLsbD b := by
  by_cases h1 : 64 * j ≤ b
  · by_cases h2 : b < 64 * j + 64
    · have h3 : b - 64 * j < 64 := by omega
      have h4 : b - 64 * j < 64 * n := by omega
      simp only [Elem.setLimb, BitVec.getLsbD_or, BitVec.getLsbD_and, BitVec.getLsbD_not, BitVec.getLsbD_shiftLeft,
        BitVec.getLsbD_setWidth, BitVec.getLsbD_allOnes, hb, h1, h2, h3, h4,
        show ¬b < 64 * j by omega]
      simp
    · have h3 : ¬b - 64 * j < 64 := by omega
      simp only [Elem.setLimb, BitVec.getLsbD_or, BitVec.getLsbD_and, BitVec.getLsbD_not, BitVec.getLsbD_shiftLeft,
        BitVec.getLsbD_setWidth, BitVec.getLsbD_allOnes, hb, h1, h2, h3, BitVec.getLsbD_of_ge w (b - 64 * j) (by omega)]
      simp
  · have h2 : b < 64 * j := by omega
    simp only [Elem.setLimb, BitVec.getLsbD_or, BitVec.getLsbD_and, BitVec.getLsbD_not, BitVec.getLsbD_shiftLeft, hb, h1, h2]
    simp

/-- The limb just written reads as written (R58). -/
theorem Elem.limb_setLimb_same (e : Elem n) (j : Nat) (w : Word) (h : j < n) : (e.setLimb j w).limb j = w := by
  apply BitVec.eq_of_getLsbD_eq
  intro k hk
  have h1 : 64 * j + k < 64 * n := by omega
  have h2 : 64 * j ≤ 64 * j + k ∧ 64 * j + k < 64 * j + 64 := by omega
  rw [Elem.limb, BitVec.getLsbD_extractLsb', Elem.getLsbD_setLimb e j w _ h1, if_pos h2]
  simp [hk]

/-- A limb that was not written reads as before (R58). -/
theorem Elem.limb_setLimb_other (e : Elem n) (j k : Nat) (w : Word) (h : k ≠ j) :
    (e.setLimb j w).limb k = e.limb k := by
  apply BitVec.eq_of_getLsbD_eq
  intro b hb
  rw [Elem.limb, Elem.limb, BitVec.getLsbD_extractLsb', BitVec.getLsbD_extractLsb']
  by_cases hin : 64 * k + b < 64 * n
  · rw [Elem.getLsbD_setLimb e j w _ hin, if_neg (by omega)]
  · rw [BitVec.getLsbD_of_ge _ _ (by omega), BitVec.getLsbD_of_ge _ _ (by omega)]

theorem Elem.limbWritten_eq (e : Elem n) (j : Nat) :
    e.limbWritten j = if h : j < n then e.written[j] else false := by
  by_cases h : j < n <;> simp [Elem.limbWritten, List.getD_eq_getElem?_getD, h]

theorem Elem.limbWritten_setLimb (e : Elem n) (j k : Nat) (w : Word) :
    (e.setLimb j w).limbWritten k = (decide (k = j ∧ k < n) || e.limbWritten k) := by
  rw [Elem.limbWritten_eq, Elem.limbWritten_eq]
  by_cases h : k < n
  · by_cases hk : j = k
    · simp [Elem.setLimb, h, hk]
    · have : ¬(k = j) := fun e => hk e.symm
      simp [Elem.setLimb, h, hk, this]
  · simp [h]

theorem Elem.defined_iff (e : Elem n) : e.defined = true ↔ ∀ j, j < n → e.limbWritten j = true := by
  simp only [Elem.defined, Elem.limbWritten_eq, List.all_eq_true]
  constructor
  · intro h j hj
    simpa [hj] using h e.written[j] (by simp)
  · intro h b hb
    obtain ⟨j, hj, rfl⟩ := List.mem_iff_getElem.mp hb
    have hj' : j < n := by simpa using hj
    simpa [hj'] using h j hj'

@[simp] theorem Elem.ofValue_toNat (n v : Nat) : (Elem.ofValue n v).value.toNat = v % 2 ^ (64 * n) := by
  simp [Elem.ofValue]

@[simp] theorem Elem.ofValue_defined (n v : Nat) : (Elem.ofValue n v).defined = true := by
  simp [Elem.ofValue, Elem.defined]

@[simp] theorem Elem.ofValue_limbWritten (n v j : Nat) : (Elem.ofValue n v).limbWritten j = decide (j < n) := by
  rw [Elem.limbWritten_eq]
  by_cases h : j < n <;> simp [Elem.ofValue, h]

@[simp] theorem Elem.blank_limbWritten (n j : Nat) : (Elem.blank n).limbWritten j = false := by
  rw [Elem.limbWritten_eq]
  by_cases h : j < n <;> simp [Elem.blank, h]

@[simp] theorem Elem.blank_limb (n j : Nat) : (Elem.blank n).limb j = 0#64 := by
  simp [Elem.blank, Elem.limb]

variable (s : State) (r q : Reg)

theorem State.val_lt : s.val r < 2 ^ (64 * s.inst.n) := (s.elem r).value.isLt

theorem State.limb_toNat (j : Nat) : (s.limb r j).toNat = Machine.limb (s.val r) j := Elem.limb_toNat _ j

theorem State.canonical_iff : s.canonical r = true ↔ s.defined r = true ∧ s.val r < s.inst.q := by
  simp [State.canonical]

theorem State.defined_iff : s.defined r = true ↔ ∀ j, j < s.inst.n → s.limbWritten r j = true :=
  Elem.defined_iff _

section writeReg
variable (v : Nat)

theorem State.writeReg_elem_same : (s.writeReg r v).elem r = Elem.ofValue s.inst.n v :=
  Vector.getElem_set_self r.isLt

theorem State.writeReg_elem_other {r q : Reg} (h : q ≠ r) : (s.writeReg r v).elem q = s.elem q :=
  Vector.getElem_set_ne r.isLt q.isLt (fun e => h (Fin.ext e.symm))

@[simp] theorem State.writeReg_val_same : (s.writeReg r v).val r = v % 2 ^ (64 * s.inst.n) := by
  unfold State.val
  rw [State.writeReg_elem_same]
  exact Elem.ofValue_toNat _ _

theorem State.writeReg_val_of_lt (h : v < 2 ^ (64 * s.inst.n)) : (s.writeReg r v).val r = v := by
  rw [State.writeReg_val_same, Nat.mod_eq_of_lt h]

@[simp] theorem State.writeReg_defined_same : (s.writeReg r v).defined r = true := by
  unfold State.defined
  rw [State.writeReg_elem_same]
  exact Elem.ofValue_defined _ _

@[simp] theorem State.writeReg_limbWritten_same (j : Nat) :
    (s.writeReg r v).limbWritten r j = decide (j < s.inst.n) := by
  unfold State.limbWritten
  rw [State.writeReg_elem_same]
  exact Elem.ofValue_limbWritten _ _ _

variable {r q} (h : q ≠ r)
include h

theorem State.writeReg_val_other : (s.writeReg r v).val q = s.val q := by
  unfold State.val
  rw [State.writeReg_elem_other s v h]
  rfl

theorem State.writeReg_defined_other : (s.writeReg r v).defined q = s.defined q := by
  unfold State.defined
  rw [State.writeReg_elem_other s v h]
  rfl

theorem State.writeReg_limb_other (j : Nat) : (s.writeReg r v).limb q j = s.limb q j := by
  unfold State.limb
  rw [State.writeReg_elem_other s v h]
  rfl

theorem State.writeReg_limbWritten_other (j : Nat) : (s.writeReg r v).limbWritten q j = s.limbWritten q j := by
  unfold State.limbWritten
  rw [State.writeReg_elem_other s v h]
  rfl

end writeReg

section writeLimb
variable (j : Nat) (w : Word)

theorem State.writeLimb_elem_same : (s.writeLimb r j w).elem r = (s.elem r).setLimb j w :=
  Vector.getElem_set_self r.isLt

theorem State.writeLimb_elem_other {r q : Reg} (h : q ≠ r) : (s.writeLimb r j w).elem q = s.elem q :=
  Vector.getElem_set_ne r.isLt q.isLt (fun e => h (Fin.ext e.symm))

theorem State.writeLimb_limb_same (h : j < s.inst.n) : (s.writeLimb r j w).limb r j = w := by
  unfold State.limb
  rw [State.writeLimb_elem_same]
  exact Elem.limb_setLimb_same _ _ _ h

theorem State.writeLimb_limb_otherLimb (k : Nat) (h : k ≠ j) : (s.writeLimb r j w).limb r k = s.limb r k := by
  unfold State.limb
  rw [State.writeLimb_elem_same]
  exact Elem.limb_setLimb_other _ _ _ _ h

theorem State.writeLimb_limbWritten_same (k : Nat) :
    (s.writeLimb r j w).limbWritten r k = (decide (k = j ∧ k < s.inst.n) || s.limbWritten r k) := by
  unfold State.limbWritten
  rw [State.writeLimb_elem_same]
  exact Elem.limbWritten_setLimb _ _ _ _

end writeLimb

theorem State.underReset_elem : s.underReset.elem r = Elem.blank s.inst.n :=
  Vector.getElem_replicate r.isLt

@[simp] theorem State.underReset_limbWritten (j : Nat) : s.underReset.limbWritten r j = false := by
  unfold State.limbWritten
  rw [State.underReset_elem]
  exact Elem.blank_limbWritten _ _

@[simp] theorem State.underReset_limb (j : Nat) : s.underReset.limb r j = 0#64 := by
  unfold State.limb
  rw [State.underReset_elem]
  exact Elem.blank_limb _ _

end Sys2Proof.Machine
end

