-- ==== Sys2Proof/Laws/Ops.lean ====
section
/-! SUPPORT. What each shared operation can do: recording and clearing errors, and writing a command's result. -/

namespace Sys2Proof.Machine

variable (s : State)

section raiseError
variable (e : CmdError)

/-- Recording an error is one of two updates of STATUS (R202). -/
theorem State.raiseError_cases :
    (s.err = true ∧ s.raiseError e = { s with errovf := true }) ∨
      (s.err = false ∧ s.raiseError e = { s with err := true, errcode := e.code }) := by
  unfold State.raiseError
  cases h : s.err <;> simp

@[simp] theorem State.raiseError_inst : (s.raiseError e).inst = s.inst := by
  unfold State.raiseError; split <;> rfl
@[simp] theorem State.raiseError_err : (s.raiseError e).err = true := by
  unfold State.raiseError; split
  · assumption
  · rfl
@[simp] theorem State.raiseError_pend : (s.raiseError e).pend = s.pend := by
  unfold State.raiseError; split <;> rfl
@[simp] theorem State.raiseError_busy : (s.raiseError e).busy = s.busy := by
  unfold State.raiseError; split <;> rfl
@[simp] theorem State.raiseError_wait : (s.raiseError e).wait = s.wait := by
  unfold State.raiseError; split <;> rfl
@[simp] theorem State.raiseError_inputs : (s.raiseError e).inputs = s.inputs := by
  unfold State.raiseError; split <;> rfl
@[simp] theorem State.raiseError_reply : (s.raiseError e).reply = s.reply := by
  unfold State.raiseError; split <;> rfl
@[simp] theorem State.raiseError_draws : (s.raiseError e).draws = s.draws := by
  unfold State.raiseError; split <;> rfl
@[simp] theorem State.raiseError_val (r : Reg) : (s.raiseError e).val r = s.val r := by
  unfold State.raiseError; split <;> rfl
@[simp] theorem State.raiseError_limb (r : Reg) (j : Nat) : (s.raiseError e).limb r j = s.limb r j := by
  unfold State.raiseError; split <;> rfl
@[simp] theorem State.raiseError_limbWritten (r : Reg) (j : Nat) :
    (s.raiseError e).limbWritten r j = s.limbWritten r j := by
  unfold State.raiseError; split <;> rfl

end raiseError

section clearErrors
variable (v : Word)

/-- A write to STATUS is one of three updates of STATUS (R59). -/
theorem State.clearErrors_cases :
    s.clearErrors v = { s with err := false, errovf := false, errcode := 0#8 } ∨
      s.clearErrors v = { s with errovf := false } ∨ s.clearErrors v = s := by
  unfold State.clearErrors
  split
  · exact .inl rfl
  · split
    · exact .inr (.inl rfl)
    · exact .inr (.inr rfl)

@[simp] theorem State.clearErrors_inst : (s.clearErrors v).inst = s.inst := by
  unfold State.clearErrors; split <;> [rfl; split <;> rfl]
@[simp] theorem State.clearErrors_pend : (s.clearErrors v).pend = s.pend := by
  unfold State.clearErrors; split <;> [rfl; split <;> rfl]
@[simp] theorem State.clearErrors_busy : (s.clearErrors v).busy = s.busy := by
  unfold State.clearErrors; split <;> [rfl; split <;> rfl]
@[simp] theorem State.clearErrors_wait : (s.clearErrors v).wait = s.wait := by
  unfold State.clearErrors; split <;> [rfl; split <;> rfl]
@[simp] theorem State.clearErrors_inputs : (s.clearErrors v).inputs = s.inputs := by
  unfold State.clearErrors; split <;> [rfl; split <;> rfl]
@[simp] theorem State.clearErrors_reply : (s.clearErrors v).reply = s.reply := by
  unfold State.clearErrors; split <;> [rfl; split <;> rfl]
@[simp] theorem State.clearErrors_draws : (s.clearErrors v).draws = s.draws := by
  unfold State.clearErrors; split <;> [rfl; split <;> rfl]
@[simp] theorem State.clearErrors_val (r : Reg) : (s.clearErrors v).val r = s.val r := by
  unfold State.clearErrors; split <;> [rfl; split <;> rfl]
@[simp] theorem State.clearErrors_limb (r : Reg) (j : Nat) : (s.clearErrors v).limb r j = s.limb r j := by
  unfold State.clearErrors; split <;> [rfl; split <;> rfl]
@[simp] theorem State.clearErrors_limbWritten (r : Reg) (j : Nat) :
    (s.clearErrors v).limbWritten r j = s.limbWritten r j := by
  unfold State.clearErrors; split <;> [rfl; split <;> rfl]

end clearErrors

section writeResult
variable (r : Reg) (res : Option Nat)

/-- A destination receives the result, or the next draw (R105). -/
def drawnOr (k : Nat) (res : Option Nat) : Nat := res.getD (Config.anyElem k)

/-- Writing a result is writing one value to one register, and counting the draw where there was one (R105). -/
theorem State.writeResult_cases :
    (∃ v, res = some v ∧ s.writeResult r res = s.writeReg r v) ∨
      (res = none ∧ s.writeResult r res = (s.writeReg r (Config.anyElem s.draws)).countDraw) := by
  cases res with
  | none => exact .inr ⟨rfl, rfl⟩
  | some v => exact .inl ⟨v, rfl, rfl⟩

@[simp] theorem State.writeResult_inst : (s.writeResult r res).inst = s.inst := by cases res <;> rfl
@[simp] theorem State.writeResult_err : (s.writeResult r res).err = s.err := by cases res <;> rfl
@[simp] theorem State.writeResult_errovf : (s.writeResult r res).errovf = s.errovf := by cases res <;> rfl
@[simp] theorem State.writeResult_errcode : (s.writeResult r res).errcode = s.errcode := by cases res <;> rfl
@[simp] theorem State.writeResult_pend : (s.writeResult r res).pend = s.pend := by cases res <;> rfl
@[simp] theorem State.writeResult_wait : (s.writeResult r res).wait = s.wait := by cases res <;> rfl
@[simp] theorem State.writeResult_inputs : (s.writeResult r res).inputs = s.inputs := by cases res <;> rfl
@[simp] theorem State.writeResult_reply : (s.writeResult r res).reply = s.reply := by cases res <;> rfl
@[simp] theorem State.writeResult_draws :
    (s.writeResult r res).draws = s.draws + if res.isNone then 1 else 0 := by cases res <;> rfl

@[simp] theorem State.writeResult_val_same :
    (s.writeResult r res).val r = drawnOr s.draws res % 2 ^ (64 * s.inst.n) := by
  cases res with
  | none => exact State.writeReg_val_same s r _
  | some v => exact State.writeReg_val_same s r v

@[simp] theorem State.writeResult_defined_same : (s.writeResult r res).defined r = true := by
  cases res with
  | none => exact State.writeReg_defined_same s r _
  | some v => exact State.writeReg_defined_same s r v

@[simp] theorem State.writeResult_limbWritten_same (j : Nat) :
    (s.writeResult r res).limbWritten r j = decide (j < s.inst.n) := by
  cases res with
  | none => exact State.writeReg_limbWritten_same s r _ j
  | some v => exact State.writeReg_limbWritten_same s r v j

variable {r} {q : Reg} (h : q ≠ r)
include h

theorem State.writeResult_val_other : (s.writeResult r res).val q = s.val q := by
  cases res with
  | none => exact State.writeReg_val_other s _ h
  | some v => exact State.writeReg_val_other s v h

theorem State.writeResult_defined_other : (s.writeResult r res).defined q = s.defined q := by
  cases res with
  | none => exact State.writeReg_defined_other s _ h
  | some v => exact State.writeReg_defined_other s v h

theorem State.writeResult_limb_other (j : Nat) : (s.writeResult r res).limb q j = s.limb q j := by
  cases res with
  | none => exact State.writeReg_limb_other s _ h j
  | some v => exact State.writeReg_limb_other s v h j

theorem State.writeResult_limbWritten_other (j : Nat) :
    (s.writeResult r res).limbWritten q j = s.limbWritten q j := by
  cases res with
  | none => exact State.writeReg_limbWritten_other s _ h j
  | some v => exact State.writeReg_limbWritten_other s v h j

end writeResult

end Sys2Proof.Machine
end

