-- ==== Sys2Proof/Laws/PerInstr.lean ====
section
/-! SUPPORT. Facts about every command as syntax, one lemma per constructor. -/

namespace Sys2Proof.Laws.EncodingShape

/-- The reserved bits of an encoded command are 0, its OP field is its opcode, and a field that its format does not
use is 0 (R81, R82, R84). -/
def Statement (i : Instr) : Prop :=
  (encode i).extractLsb' 16 48 = 0#48 ∧ opField (encode i) = i.op.code ∧
    (i.op.format ≠ .r3 → rbField (encode i) = 0) ∧ (i.op.format = .r1 → raField (encode i) = 0)

/-- The shape of a command word from its three fields and its opcode. -/
theorem of_fields (i : Instr) (hb : i.op.format ≠ .r3 → i.rb = 0) (ha : i.op.format = .r1 → i.ra = 0) :
    Statement i := by
  have he := encode_toNat i
  have hc := i.op.code.isLt
  have h1 := i.rb.isLt
  have h2 := i.ra.isLt
  have h3 := i.rd.isLt
  refine ⟨(upperBits_eq_zero_iff _).2 (by omega), ?_, fun h => ?_, fun h => ?_⟩
  · apply BitVec.eq_of_toNat_eq
    rw [opField_toNat, he]
    omega
  · apply Fin.ext
    have : i.rb.val = 0 := congrArg Fin.val (hb h)
    rw [rbField_val, he]
    show _ = 0
    omega
  · apply Fin.ext
    have : i.ra.val = 0 := congrArg Fin.val (ha h)
    rw [raField_val, he]
    show _ = 0
    omega

theorem fmul (rd ra rb : Reg) : Statement (.fmul rd ra rb) :=
  of_fields _ (fun h => absurd rfl h) (fun h => by cases h)

theorem fred (rd : Reg) : Statement (.fred rd) := of_fields _ (fun _ => rfl) (fun _ => rfl)

theorem ffrom (rd : Reg) : Statement (.ffrom rd) := of_fields _ (fun _ => rfl) (fun _ => rfl)

theorem fmul3 (rd : Reg) : Statement (.fmul3 rd) := of_fields _ (fun _ => rfl) (fun _ => rfl)

theorem fmul5 (rd : Reg) : Statement (.fmul5 rd) := of_fields _ (fun _ => rfl) (fun _ => rfl)

theorem fmul13 (rd : Reg) : Statement (.fmul13 rd) := of_fields _ (fun _ => rfl) (fun _ => rfl)

theorem fbfly (rd ra : Reg) : Statement (.fbfly rd ra) := of_fields _ (fun _ => rfl) (fun h => by cases h)

end Sys2Proof.Laws.EncodingShape
end

