-- ==== Sys2Proof/Laws/Window.lean ====
section
/-! SUPPORT. The window's map at each offset, the bytes of a word, and what a host access can do. -/

namespace Sys2Proof.Machine

/-- A window offset below 4096 is itself as a 12-bit number (R50). -/
theorem offset_toNat (o : Nat) (h : o < 4096) : (BitVec.ofNat 12 o).toNat = o := by
  simp
  omega

theorem portAt_element {n : Nat} (hn : n ≤ 16) (r : Reg) (j : Nat) (hj : j < n) :
    portAt n (BitVec.ofNat 12 (0x800 + 0x80 * r.val + 8 * j)) = .element r j := by
  have hr := r.isLt
  have ho := offset_toNat (0x800 + 0x80 * r.val + 8 * j) (by omega)
  have h1 : (0x80 * r.val + 8 * j) / 0x80 = r.val := by omega
  have h2 : (0x80 * r.val + 8 * j) % 0x80 = 8 * j := by omega
  have h3 : 0x800 + 0x80 * r.val + 8 * j - 0x800 = 0x80 * r.val + 8 * j := by omega
  unfold portAt
  simp only [ho, h3, h1, h2]
  rw [if_neg (by omega), if_neg (by omega), if_neg (by omega), if_neg (by omega), if_neg (by omega),
    if_pos ⟨by omega, by omega⟩]
  simp

theorem portAt_modulus {n : Nat} (hn : n ≤ 16) (j : Nat) (hj : j < n) :
    portAt n (BitVec.ofNat 12 (0x100 + 8 * j)) = .modulus j := by
  have ho := offset_toNat (0x100 + 8 * j) (by omega)
  unfold portAt
  simp only [ho]
  rw [if_neg (by omega), if_neg (by omega), if_neg (by omega), if_neg (by omega), if_pos ⟨by omega, by omega⟩]
  simp

/-- Where in the window a port stands (R52). -/
def PortStands (n o : Nat) : Port → Prop
  | .id => o = 0x000
  | .status => o = 0x008
  | .cmd => o = 0x010
  | .qinv0 => o = 0x018
  | .modulus j => 0x100 ≤ o ∧ o < 0x100 + 8 * n ∧ j = (o - 0x100) / 8 ∧ j < n
  | .element r j => 0x800 ≤ o ∧ (o - 0x800) % 0x80 < 8 * n ∧ r.val = (o - 0x800) / 0x80 ∧
      j = (o - 0x800) % 0x80 / 8 ∧ j < n
  | .reserved => o ≠ 0x000 ∧ o ≠ 0x008 ∧ o ≠ 0x010 ∧ o ≠ 0x018 ∧ ¬(0x100 ≤ o ∧ o < 0x100 + 8 * n) ∧
      ¬(0x800 ≤ o ∧ (o - 0x800) % 0x80 < 8 * n)

/-- What an offset names stands at that offset (R52). -/
theorem portAt_inv {n : Nat} (off : BitVec 12) : PortStands n off.toNat (portAt n off) := by
  have hlt := off.isLt
  unfold portAt
  generalize off.toNat = o at hlt ⊢
  dsimp only
  by_cases h1 : o = 0x000
  · rw [if_pos h1]; exact h1
  by_cases h2 : o = 0x008
  · rw [if_neg h1, if_pos h2]; exact h2
  by_cases h3 : o = 0x010
  · rw [if_neg h1, if_neg h2, if_pos h3]; exact h3
  by_cases h4 : o = 0x018
  · rw [if_neg h1, if_neg h2, if_neg h3, if_pos h4]; exact h4
  by_cases h5 : 0x100 ≤ o ∧ o < 0x100 + 8 * n
  · rw [if_neg h1, if_neg h2, if_neg h3, if_neg h4, if_pos h5]
    exact ⟨h5.1, h5.2, rfl, by omega⟩
  by_cases h6 : 0x800 ≤ o ∧ (o - 0x800) % 0x80 < 8 * n
  · rw [if_neg h1, if_neg h2, if_neg h3, if_neg h4, if_neg h5, if_pos h6]
    refine ⟨h6.1, h6.2, ?_, rfl, by omega⟩
    show (o - 0x800) / 0x80 % 16 = (o - 0x800) / 0x80
    omega
  · rw [if_neg h1, if_neg h2, if_neg h3, if_neg h4, if_neg h5, if_neg h6]
    exact ⟨h1, h2, h3, h4, h5, h6⟩

/-- The offsets that name no writable register: ID, QINV0, Q[j] and the reserved ones (R52, R60). -/
theorem portAt_not_writable {n : Nat} (off : BitVec 12)
    (h : off.toNat = 0x000 ∨ (0x018 ≤ off.toNat ∧ off.toNat < 0x800) ∨
      (0x800 ≤ off.toNat ∧ 8 * n ≤ (off.toNat - 0x800) % 0x80)) :
    portAt n off = .id ∨ portAt n off = .qinv0 ∨ (∃ j, portAt n off = .modulus j) ∨ portAt n off = .reserved := by
  have hi := portAt_inv (n := n) off
  cases hp : portAt n off <;> rw [hp] at hi <;> simp only [PortStands] at hi
  case status | cmd | element => exfalso; omega
  all_goals simp

theorem windowOffset_base (c : Inst) (o : Nat) (h : o < 4096) :
    windowOffset c (c.base + o) = some (BitVec.ofNat 12 o) := by
  unfold windowOffset
  rw [if_pos (by omega)]
  simp

@[simp] theorem busBytes_length (v : Word) : (busBytes v).length = 8 := by simp [busBytes]

/-- Bytes go over the bus and come back in the same order (R53). -/
theorem wordOfBytes_busBytes (v : Word) : wordOfBytes (busBytes v) = v := by
  apply BitVec.eq_of_getLsbD_eq
  intro i hi
  simp only [wordOfBytes, busBytes, byteLane, List.range, List.range.loop, List.map, List.foldr, BitVec.getLsbD_or,
    BitVec.getLsbD_shiftLeft, BitVec.getLsbD_setWidth, BitVec.getLsbD_extractLsb', BitVec.getLsbD_zero]
  interval_cases i <;> simp

/-- A read changes nothing but the count of draws (R55, R65). -/
theorem State.hostRead_state (s : State) (off : BitVec 12) :
    (s.hostRead off).2 = s ∨ (s.hostRead off).2 = s.countDraw := by
  unfold State.hostRead
  split <;> try exact .inl rfl
  split
  · exact .inr rfl
  · exact .inl rfl

/-- What a write in the window can do to the state (R58 to R62). -/
inductive WriteEffect (s : State) : State → Prop
  | error (e : CmdError) : WriteEffect s (s.raiseError e)
  | clear (v : Word) : WriteEffect s (s.clearErrors v)
  | accept (v : Word) (i : Instr) (idle : s.busy = false) (hdec : decode v = .ok i) : WriteEffect s (s.accept i)
  | limb (r : Reg) (j : Nat) (v : Word) (idle : s.busy = false) (hj : j < s.inst.n) :
      WriteEffect s (s.writeLimb r j v)

theorem State.cmdWrite_effect (s : State) (v : Word) : WriteEffect s (s.cmdWrite v) := by
  unfold State.cmdWrite
  split
  · exact .error _
  · rename_i hb
    split
    · exact .error _
    · rename_i i hd
      exact .accept v i (by simpa using hb) hd

theorem State.hostWrite_effect (s : State) (off : BitVec 12) (v : Word) : WriteEffect s (s.hostWrite off v) := by
  have hi := portAt_inv (n := s.inst.n) off
  unfold State.hostWrite
  cases hp : portAt s.inst.n off with
  | id => exact .error _
  | status => exact .clear _
  | cmd => exact State.cmdWrite_effect s v
  | qinv0 => exact .error _
  | modulus j => exact .error _
  | reserved => exact .error _
  | element r j =>
    rw [hp] at hi
    dsimp only
    split
    · exact .error _
    · rename_i hb
      exact .limb r j v (by simpa using hb) hi.2.2.2.2

/-- A read on the bus, in the window, returns bytes and at most counts a draw (R54, R55). -/
theorem State.busRead_next (s t : State) (addr len : Nat) (h : s.busRead addr len = .next t) :
    ∃ bytes, t = s.answer bytes ∨ t = s.countDraw.answer bytes := by
  unfold State.busRead at h
  split at h
  · cases h
  · rename_i off _
    split at h
    · cases h
      refine ⟨busBytes (s.hostRead off).1, ?_⟩
      rcases s.hostRead_state off with hs | hs <;> simp [hs]
    · cases h
      exact ⟨_, .inl rfl⟩

/-- A write on the bus, in the window, has the effect of one write (R54, R60). -/
theorem State.busWrite_next (s t : State) (addr : Nat) (bytes : List Byte) (h : s.busWrite addr bytes = .next t) :
    WriteEffect s t := by
  unfold State.busWrite at h
  split at h
  · cases h
  · split at h
    · cases h
      exact State.hostWrite_effect s _ _
    · cases h
      exact .error _

end Sys2Proof.Machine
end

