-- ==== Sys2Proof/Laws/Step.lean ====
section
/-! SUPPORT. What one step can do, said once: a completion, an idle cycle, a reset, a read or a write. -/

namespace Sys2Proof.Machine

/-- The state a host cycle acts on: the first input taken, one cycle of latency gone. -/
def State.cycle (s : State) (rest : List HostInput) : State := (s.withInputs rest).tick

/-- What one step can do (R16, R63, R69, R230). -/
inductive StepEffect (s : State) : State → Prop
  /-- The pending command completes. -/
  | complete (i : Instr) (t : State) (hc : s.completing = some i) (he : exec i s = .next t) : StepEffect s t
  /-- No input is left. -/
  | quiet (hc : s.completing = none) (hin : s.inputs = []) : StepEffect s s.tick
  /-- A cycle without an access. -/
  | idle (rest : List HostInput) (hc : s.completing = none) (hin : s.inputs = .idle :: rest) :
      StepEffect s (s.cycle rest)
  /-- The reset input is asserted. -/
  | reset (rest : List HostInput) (hin : s.inputs = .reset :: rest) : StepEffect s (s.withInputs rest).underReset
  /-- A read. -/
  | read (rest : List HostInput) (addr len : Nat) (t : State) (bytes : List Byte) (hc : s.completing = none)
      (hin : s.inputs = .read addr len :: rest)
      (he : t = (s.cycle rest).answer bytes ∨ t = (s.cycle rest).countDraw.answer bytes) : StepEffect s t
  /-- A write. -/
  | write (rest : List HostInput) (addr : Nat) (bytes : List Byte) (t : State) (hc : s.completing = none)
      (hin : s.inputs = .write addr bytes :: rest) (he : WriteEffect (s.cycle rest) t) : StepEffect s t

/-- Every next state of a step is one of these. -/
theorem step_effect (s t : State) (h : step s = .next t) : StepEffect s t := by
  unfold step at h
  cases hc : s.completing with
  | some i =>
    rw [hc] at h
    exact .complete i t hc h
  | none =>
    rw [hc] at h
    unfold State.hostCycle at h
    dsimp only at h
    cases hin : s.inputs with
    | nil =>
      simp only [hin, Host.Outcome.next.injEq] at h
      exact h ▸ .quiet hc hin
    | cons x rest =>
      simp only [hin] at h
      cases x with
      | idle =>
        simp only [Host.Outcome.next.injEq] at h
        exact h ▸ .idle rest hc hin
      | reset =>
        simp only [Host.Outcome.next.injEq] at h
        exact h ▸ .reset rest hin
      | read addr len =>
        obtain ⟨bytes, hb⟩ := State.busRead_next _ _ _ _ h
        exact .read rest addr len t bytes hc hin hb
      | write addr bytes => exact .write rest addr bytes t hc hin (State.busWrite_next _ _ _ _ h)

end Sys2Proof.Machine
end

