-- ==== Sys2Proof/Laws/Run.lean ====
section
/-! SUPPORT. Runs of several steps, and the accesses a run performs. -/

namespace Sys2Proof.Machine

/-- A run of one step more, from a step that answers a next state. -/
theorem run_succ (k : Nat) (s t : State) (h : step s = .next t) :
    Host.Core.run Sys2Proof.core (k + 1) s = Host.Core.run Sys2Proof.core k t := by
  have h' : Sys2Proof.core.step s = .next t := h
  simp only [Host.Core.run, h']

/-- A run continues where a shorter one ended. -/
theorem run_add (j k : Nat) (s t : State) (h : Host.Core.run Sys2Proof.core j s = .next t) :
    Host.Core.run Sys2Proof.core (j + k) s = Host.Core.run Sys2Proof.core k t := by
  induction j generalizing s with
  | zero =>
    cases h
    rw [Nat.zero_add]
  | succ j ih =>
    rw [show j + 1 + k = (j + k) + 1 by omega]
    cases hs : Sys2Proof.core.step s with
    | next s' =>
      rw [run_succ j s s' hs] at h
      rw [run_succ (j + k) s s' hs]
      exact ih s' h
    | fault r => simp [Host.Core.run, hs] at h
    | refused r => simp [Host.Core.run, hs] at h

/-- An access is performed from the front of the inputs, in a step that completes no command. -/
theorem State.performing_eq_some {s : State} {x : HostInput} (h : s.performing = some x) :
    s.completing = none ∧ x.isAccess = true ∧ ∃ rest, s.inputs = x :: rest := by
  unfold State.performing at h
  split at h
  · cases h
  · rename_i hc
    cases hin : s.inputs with
    | nil => simp [hin] at h
    | cons y rest =>
      simp only [hin, List.head?_cons, Option.filter, Option.ite_none_right_eq_some, Option.some.injEq] at h
      exact ⟨by simpa using hc, h.2 ▸ h.1, rest, by rw [h.2]⟩

/-- The step that performs a STATUS read (R55). -/
theorem step_status_read (s : State) (rest : List HostInput) (hc : s.completing = none)
    (hin : s.inputs = .read (s.inst.base + 0x008) 8 :: rest) :
    step s = .next ((s.cycle rest).answer (busBytes s.statusWord)) := by
  have hw : windowOffset (s.cycle rest).inst (s.inst.base + 0x008) = some 0x008#12 :=
    windowOffset_base s.inst 0x008 (by omega)
  unfold step State.hostCycle
  simp only [hc, hin]
  change (s.cycle rest).busRead _ _ = _
  unfold State.busRead
  rw [hw]
  rfl

/-- BUSY is bit 0 of STATUS (R29). -/
theorem State.statusWord_bit0 (s : State) : s.statusWord.getLsbD 0 = s.busy := by
  unfold State.statusWord
  rw [BitVec.getLsbD_append]
  cases s.busy <;> rfl

end Sys2Proof.Machine
end

