-- ==== Sys2Proof/Tests/Slice0.lean ====
section
/-! SUPPORT. Small tests against the vectors of spec/95_test_vectors.md, and, for each statement that has hypotheses, a
state and operands that meet them. -/

namespace Sys2Proof.Tests

open Sys2Proof Sys2Proof.Machine

/-! ## Instances and states -/

/-- The N = 6 test modulus of the spec (95_test_vectors.md section 2), the window at 0x4000. -/
def inst6 : Inst where
  limbs := .six
  q := 0x1a0111ea397fe69a4b1ba7b6434bacd764774b84f38512bf6730d2a0f6b0f6241eabfffeb153ffffb9feffffffffaaab
  base := 0x4000
  odd := by decide +kernel
  three_le := by decide +kernel
  q_lt := by decide +kernel
  aligned := by decide +kernel

/-- The N = 5 test modulus of the spec. -/
def inst5 : Inst where
  limbs := .five
  q := 0x7ffffffffffffffffffffffffffffffffffffffffffffffffffffffffffffffffffffffffffffce5
  base := 0
  odd := by decide +kernel
  three_le := by decide +kernel
  q_lt := by decide +kernel
  aligned := by decide +kernel

/-- The N = 10 test modulus of the spec. -/
def inst10 : Inst where
  limbs := .ten
  q := 2 ^ 639 - 0x1f3
  base := 0x10000
  odd := by decide +kernel
  three_le := by decide +kernel
  q_lt := by decide +kernel
  aligned := by decide +kernel

/-- An instance right after reset. -/
def fresh (c : Inst) : State where
  inst := c
  regs := Vector.replicate 16 (Elem.blank c.n)
  err := false
  errovf := false
  errcode := 0#8
  pend := none
  wait := 0
  inputs := []
  reply := []
  draws := 0

/-- An instance after reset with some registers loaded. -/
def loaded (c : Inst) (xs : List (Reg × Nat)) : State := xs.foldl (fun s x => s.writeReg x.1 x.2) (fresh c)

/-- The N = 6 instance with `fred e1` pending. -/
def busy6 : State := { loaded inst6 [(1, 5)] with pend := some (.fred 1), wait := 2 }

/-- The outcome is a next state with a property. -/
def nextWith (o : Host.Outcome State Fault Refusal) (p : State → Bool) : Bool :=
  match o with
  | .next t => p t
  | .fault _ => false
  | .refused _ => false

/-! ## Well-formedness -/

theorem test_wf_refuses_butterfly_of_one_register : (Instr.fbfly 4 4).wf = false := by decide

theorem test_wf_accepts_aliased_multiply : (Instr.fmul 0 0 0).wf = true ∧ (Instr.fbfly 1 2).wf = true := by decide

/-! ## Decoding: the words of R84 written out bit by bit, and the vectors of section 4 -/

theorem test_decode_fmul : decode ((0b0000000000000000#16 ++ 0b0010#4 ++ 0b0001#4 ++ 0b0011#4 ++ 0b0001#4).setWidth 64)
    = .ok (.fmul 3 1 2) := by rfl

theorem test_decode_fred : decode ((0b0000000000000000#16 ++ 0b0000#4 ++ 0b0000#4 ++ 0b1111#4 ++ 0b0010#4).setWidth 64)
    = .ok (.fred 15) := by rfl

theorem test_decode_ffrom : decode ((0b0000000000000000#16 ++ 0b0000#4 ++ 0b0000#4 ++ 0b0100#4 ++ 0b0011#4).setWidth 64)
    = .ok (.ffrom 4) := by rfl

theorem test_decode_fmul3 : decode ((0b0000000000000000#16 ++ 0b0000#4 ++ 0b0000#4 ++ 0b0101#4 ++ 0b0100#4).setWidth 64)
    = .ok (.fmul3 5) := by rfl

theorem test_decode_fmul5 : decode ((0b0000000000000000#16 ++ 0b0000#4 ++ 0b0000#4 ++ 0b0110#4 ++ 0b0101#4).setWidth 64)
    = .ok (.fmul5 6) := by rfl

theorem test_decode_fmul13 : decode ((0b0000000000000000#16 ++ 0b0000#4 ++ 0b0000#4 ++ 0b0111#4 ++ 0b0110#4).setWidth 64)
    = .ok (.fmul13 7) := by rfl

theorem test_decode_fbfly : decode ((0b0000000000000000#16 ++ 0b0000#4 ++ 0b0010#4 ++ 0b0001#4 ++ 0b0111#4).setWidth 64)
    = .ok (.fbfly 1 2) := by rfl

theorem test_decode_table_word : decodeTableWord 32 0x217 = some (.fbfly 1 2) ∧ decodeTableWord 32 0x7 = none := by
  decide

theorem test_cmd_errors :
    [0x0#64, 0x8#64, 0xf#64, 0x112#64, 0x1016#64, 0x3217#64, 0x447#64, 0x10001#64, 0x100002131#64, 0x100009#64,
      0x1227#64].map (fun v => ((fresh inst6).cmdWrite v).statusWord) =
    [0x102#64, 0x102#64, 0x102#64, 0x202#64, 0x202#64, 0x202#64, 0x302#64, 0x202#64, 0x202#64, 0x102#64, 0x202#64] := by
  decide +kernel

theorem test_cmd_while_busy : (busy6.cmdWrite 0x12#64).statusWord = 0x403#64 ∧
    (busy6.cmdWrite 0x0#64).statusWord = 0x403#64 := by decide +kernel

theorem test_cmd_accepted : ((fresh inst6).cmdWrite 0x2131#64).statusWord = 0x1#64 ∧
    ((fresh inst6).cmdWrite 0x2131#64).pend = some (.fmul 3 1 2) := by decide +kernel

/-! ## The window: vectors of section 5 -/

theorem test_read_id : ((fresh inst6).hostRead 0x000#12).1 = 0x11006#64 := by decide +kernel

theorem test_read_qinv0 : ((fresh inst6).hostRead 0x018#12).1 = 0x89f3fffcfffcfffd#64 ∧
    qinv0 inst5 = 0xf12ffad909569f13#64 ∧ qinv0 inst10 = 0xad671e44bed87f3b#64 := by decide +kernel

theorem test_read_modulus : ((fresh inst6).hostRead 0x100#12).1 = 0xb9feffffffffaaab#64 ∧
    ((fresh inst6).hostRead 0x128#12).1 = 0x1a0111ea397fe69a#64 ∧ ((fresh inst6).hostRead 0x130#12).1 = 0#64 := by
  decide +kernel

theorem test_write_id_is_dropped : ((fresh inst6).hostWrite 0x000#12 5#64).statusWord = 0x602#64 := by decide +kernel

theorem test_misaligned_write_sets_errovf :
    nextWith (((fresh inst6).hostWrite 0x000#12 5#64).busWrite 0x4004 (busBytes 1#64))
      (fun t => t.statusWord == 0x606#64) = true := by decide +kernel

theorem test_reserved_limb_write : ((fresh inst6).hostWrite 0x830#12 1#64).statusWord = 0x602#64 := by decide +kernel

theorem test_limb_write_while_busy : (busy6.hostWrite 0x808#12 7#64).statusWord = 0x503#64 := by decide +kernel

theorem test_status_write_while_busy :
    ((busy6.hostWrite 0x808#12 7#64).hostWrite 0x008#12 2#64).statusWord = 0x1#64 := by decide +kernel

theorem test_bus_write_is_little_endian :
    nextWith ((fresh inst6).busWrite 0x4880 [1#8, 2#8, 0#8, 0#8, 0#8, 0#8, 0#8, 0x80#8])
      (fun t => t.limb 1 0 == 0x8000000000000201#64 && t.limbWritten 1 0 && !t.limbWritten 1 1) = true := by
  decide +kernel

/-- The limb order example of section 3: limbs 0 and 5 of enc(77). -/
theorem test_limb_order :
    let s := loaded inst6 [(1,
      0xd4f479bf4b33259c1d6a54bdee3a3c86c66456f3fa7d44757057659007310d2eb803def14800cf46f6000000fca9ae)]
    (s.hostRead 0x880#12).1 = 0x46f6000000fca9ae#64 ∧ (s.hostRead 0x8a8#12).1 = 0x00d4f479bf4b3325#64 := by
  decide +kernel

/-! ## The commands: vectors of section 3 -/

theorem test_fmul_enc7_enc11 :
    nextWith (exec (.fmul 3 1 2) (loaded inst6 [
      (1, 0x17b73dc8ba06bf040ca773961fe616c9504ff0af50a7052897080d3e78fe9e67da500058e5b00012984400000016aa94),
      (2, 0x78c712fbe0ab6e850553f1b9c1315219dac23e943dc174077672417ed5828c30f70008d3090001d886c00000023ffdc)]))
      (fun t => t.val 3 ==
        0xd4f479bf4b33259c1d6a54bdee3a3c86c66456f3fa7d44757057659007310d2eb803def14800cf46f6000000fca9ae) = true := by
  decide +kernel

theorem test_fmul_maximal_operands_n5 :
    nextWith (exec (.fmul 1 1 1) (loaded inst5 [(1, inst5.q - 1)]))
      (fun t => t.val 1 == 0x497fd6c84ab4f897fd6c84ab4f897fd6c84ab4f897fd6c84ab4f897fd6c84ab4f897fd6c84ab4dc1) =
      true := by decide +kernel

theorem test_fred_twice_q_less_one :
    nextWith (exec (.fred 3) (loaded inst6 [(3, 2 * inst6.q - 1)])) (fun t => t.val 3 == inst6.q - 1) = true := by
  decide +kernel

theorem test_fred_all_ones :
    nextWith (exec (.fred 6) (loaded inst6 [(6, 2 ^ 384 - 1)])) (fun t => t.val 6 ==
      0xe5feee15c6801965b4e45849bcb453289b88b47b0c7aed4098cf2d5f094f09dbe15400014eac00004601000000005554) = true := by
  decide +kernel

theorem test_ffrom_enc77 :
    nextWith (exec (.ffrom 4) (loaded inst6 [(4,
      0xd4f479bf4b33259c1d6a54bdee3a3c86c66456f3fa7d44757057659007310d2eb803def14800cf46f6000000fca9ae)]))
      (fun t => t.val 4 == 0x4d) = true := by decide +kernel

theorem test_ffrom_one_n10 :
    nextWith (exec (.ffrom 4) (loaded inst10 [(4, 0x3e6)])) (fun t => t.val 4 == 1) = true := by decide +kernel

theorem test_fmul3_of_q_less_one :
    nextWith (exec (.fmul3 5) (loaded inst6 [(5, inst6.q - 1)])) (fun t => t.val 5 == inst6.q - 3) = true := by
  decide +kernel

theorem test_fmul5_of_enc1_n5 :
    nextWith (exec (.fmul5 6) (loaded inst5 [(6, 0x636)])) (fun t => t.val 6 == 0x1f0e) = true := by decide +kernel

theorem test_fmul13_of_enc1 :
    nextWith (exec (.fmul13 7) (loaded inst6 [(7,
      0x15f65ec3fa80e4935c071a97a256ec6d77ce5853705257455f48985753c758baebf4000bc40c0002760900000002fffd)]))
      (fun t => t.val 7 ==
        0x19781ccd798c9974bd47cc949d75412528d1890b30fbb30bcec782259e35e414c8ac00a607540022ba7f0000002a552b) = true := by
  decide +kernel

theorem test_fbfly_borrow :
    nextWith (exec (.fbfly 1 2) (loaded inst6 [(1, 3), (2, 5)])) (fun t => t.val 1 == 8 && t.val 2 ==
      0x1a0111ea397fe69a4b1ba7b6434bacd764774b84f38512bf6730d2a0f6b0f6241eabfffeb153ffffb9feffffffffaaa9) = true := by
  decide +kernel

theorem test_fbfly_twice_q_less_one :
    nextWith (exec (.fbfly 1 2) (loaded inst10 [(1, inst10.q - 1), (2, inst10.q - 1)]))
      (fun t => t.val 1 == inst10.q - 2 && t.val 2 == 0) = true := by decide +kernel

theorem test_limb_schedule_maximal_operands :
    montMulLimbs inst6 (inst6.q - 1) (inst6.q - 1) =
      0x14fec701e8fb0ce9ed5e64273c4f538b1797ab1458a88de9343ea97914956dc87fe11274d898fafbf4d38259380b4820 := by
  decide +kernel

/-- A command completes before the host's access of the same cycle (R205; H18). -/
theorem test_completion_goes_first :
    nextWith (step { busy6 with wait := 0, inputs := [inputRD inst6 0x800] })
      (fun t => t.val 1 == 5 && t.statusWord == 0#64 && t.inputs == [inputRD inst6 0x800]) = true := by decide +kernel

/-- A placed word runs in the very next step, also right after reset. -/
theorem test_placed_word_runs : nextWith (step (State.reset.withFetchWord 32 0x2131)) (fun _ => true) = true := by rfl

/-- A state with a CMD write still in the inputs is the result of no run (R243). -/
theorem test_no_result_while_a_program_is_left (s : State) (i : Instr) :
    ¬ s.runSucceeded { State.reset with inputs := [inputCMD State.reset.inst i] } := by
  rintro ⟨⟨_, _, _, _, _, _, _, _, _, _, _, hleft⟩, _⟩
  exact absurd (hleft _ (List.mem_singleton.2 rfl)) (by simp [inputCMD, inputWR, HostInput.isAccess])

/-! ## Witnesses: states and operands that meet the hypotheses of the statements -/

theorem witness_ResetInputAbandonsThePendingCommand :
    ({ busy6 with inputs := [.reset] } : State).inputs = .reset :: [] ∧ busy6.pend = some (.fred 1) := ⟨rfl, rfl⟩

/-- The loaded state meets the invariant, and a step from it answers a next state. -/
theorem witness_EveryStepKeepsTheInvariant : ∃ t, busy6.Inv ∧ step busy6 = .next t := by
  refine ⟨_, ⟨⟨by decide, by decide, by decide⟩, ⟨?_, ?_⟩, ?_⟩, rfl⟩
  · intro i h
    cases h
    rfl
  · intro h
    cases h
  · show ∀ (r : Reg) (j : Nat), j < 6 → busy6.limbWritten r j = false → busy6.limb r j = 0#64
    decide +kernel

/-- For the statements about every step that answers a next state. -/
theorem witness_step_answers_next : ∃ t, step busy6 = .next t := ⟨_, rfl⟩

theorem witness_NoStepChangesTheConstants : ∃ t, step busy6 = .next t := witness_step_answers_next

theorem witness_RegistersChangeOnlyByTheseEvents : ∃ t, step busy6 = .next t := witness_step_answers_next

theorem witness_ErrorStateChangesOnlyByWritesAndReset : ∃ t, step busy6 = .next t := witness_step_answers_next

theorem witness_TimingAndStatusDoNotDependOnRegisters : ∃ t, step busy6 = .next t := witness_step_answers_next

theorem witness_FirstErrorIsKept : busy6.err = false ∧ (busy6.raiseError .badWrite).err = true := by decide

theorem witness_StatusWriteClearsErrors :
    (0x2#64).getLsbD 1 = true ∧ (0x4#64).getLsbD 1 = false ∧ (0x4#64).getLsbD 2 = true := by decide

theorem witness_ErrorsDoNotStopTheBlock :
    (∃ t, exec (.fred 1) busy6 = .next t) ∧ (Instr.fred 15).wf = true ∧ (fresh inst6).pend = none := ⟨⟨_, rfl⟩, rfl, rfl⟩

theorem witness_Qinv0IsTheInverseDigit :
    inst6.q * 0x89f3fffcfffcfffd % 2 ^ 64 = 2 ^ 64 - 1 ∧ 0x89f3fffcfffcfffd < 2 ^ 64 := by decide +kernel

/-- Aligned accesses at the first and the last offset of the window. -/
theorem witness_AStepPerformsAnAlignedWrite :
    ({ fresh inst6 with inputs := [.write (inst6.base + 0) (busBytes 1#64)] } : State).completing = none ∧
    ({ fresh inst6 with inputs := [.write (inst6.base + 4088) (busBytes 1#64)] } : State).completing = none ∧
    4088 < 4096 ∧ 4088 % 8 = 0 := by decide +kernel

theorem witness_AStepPerformsAnAlignedRead :
    ({ fresh inst6 with inputs := [.read (inst6.base + 0) 8] } : State).completing = none ∧
    ({ fresh inst6 with inputs := [.read (inst6.base + 4088) 8] } : State).completing = none := by decide +kernel

/-- Another width at offset 0, and offset 4095: a write and a read. -/
theorem witness_UndefinedAccessesAreDropped :
    [1#8, 2#8, 3#8, 4#8].length ≠ 8 ∧ 0 < 4096 ∧ 4095 < 4096 ∧ 4095 % 8 ≠ 0 ∧ (busBytes 1#64).length = 8 ∧
    ([] : List Byte).length ≠ 8 := by decide

/-- A written and an unwritten limb, not busy and busy, the last limb of the last register, and reserved offsets at the
ends of their ranges. -/
theorem witness_ReadsFollowTheMap :
    (loaded inst6 [(15, 5)]).busy = false ∧ (loaded inst6 [(15, 5)]).limbWritten 15 5 = true ∧
    (loaded inst6 [(15, 5)]).limbWritten 0 0 = false ∧ busy6.busy = true ∧ 5 < inst6.n ∧
    (0x020 ≤ 0x0f8 ∧ 0x0f8 < 0x100) ∧ (0x100 + 8 * inst6.n ≤ 0x130 ∧ 0x7f8 < 0x800) ∧
    8 * inst6.n ≤ (0x830 - 0x800) % 0x80 ∧ 8 * inst6.n ≤ (0xff8 - 0x800) % 0x80 := by decide +kernel

theorem witness_LimbWriteSetsOneLimb : (fresh inst6).busy = false ∧ 5 < inst6.n ∧ elementOffset 15 5 = 0xfa8 := by
  decide

theorem witness_LimbWriteWhileBusyIsDropped : busy6.busy = true ∧ 5 < busy6.inst.n := by decide

/-- ID, QINV0, the last offset below the elements, and the reserved offsets after limb N-1 of E0 and at the window's
end. -/
theorem witness_WritesOfConstantsAndReservedOffsetsAreDropped :
    0x018 ≤ 0x018 ∧ 0x7f8 < 0x800 ∧ 8 * inst6.n ≤ (0x830 - 0x800) % 0x80 ∧ 8 * inst6.n ≤ (0xff8 - 0x800) % 0x80 ∧
    0xff8 < 4096 := by decide

theorem witness_ElementsAreLittleEndian : 5 < (fresh inst6).inst.n ∧ 7 < 8 := by decide

theorem witness_AddressesOutsideTheWindowStop :
    0x3fff < inst6.base ∧ inst6.base + 4096 ≤ 0x5000 := by decide

theorem witness_NLimbWritesLoadAnElement :
    ({ fresh inst6 with inputs := inputLDE inst6 15 (2 ^ 384 - 1) ++ [] } : State).pend = none ∧
    2 ^ 384 - 1 < radix inst6 := by decide +kernel

theorem witness_DecodingAnEncodedCommandGivesItBack :
    (Instr.fmul 15 15 15).wf = true ∧ (Instr.fbfly 15 14).wf = true := by decide

theorem witness_OnlyEncodedCommandsDecode : decode 0xfff1#64 = .ok (.fmul 15 15 15) := by rfl

/-- A value for each clause, at the ends of its range. -/
theorem witness_IllegalCommandsRaiseTheirErrorInOrder :
    busy6.busy = true ∧ (fresh inst6).busy = false ∧
    (0xfff0#64).toNat % 16 = 0 ∧ 8 ≤ (0x8#64).toNat % 16 ∧ 8 ≤ (0xffffffffffffffff#64).toNat % 16 ∧
    (1 ≤ (0x10001#64).toNat % 16 ∧ 2 ^ 16 ≤ (0x10001#64).toNat) ∧
    ((0xffffffffffffff07#64).toNat % 16 ≤ 7 ∧ 2 ^ 16 ≤ (0xffffffffffffff07#64).toNat) ∧
    (2 ≤ (0x102#64).toNat % 16 ∧ (0x102#64).toNat < 2 ^ 16 ∧ 2 ^ 8 ≤ (0x102#64).toNat) ∧
    ((0xfff6#64).toNat % 16 ≤ 6 ∧ (0xfff6#64).toNat < 2 ^ 16) ∧
    ((0x1007#64).toNat % 16 = 7 ∧ (0x1007#64).toNat < 2 ^ 16 ∧ 2 ^ 12 ≤ (0x1007#64).toNat) ∧
    ((0xff7#64).toNat % 16 = 7 ∧ (0xff7#64).toNat < 2 ^ 12 ∧ (0xff7#64).toNat / 16 % 16 = (0xff7#64).toNat / 256) := by
  decide

theorem witness_CommandWriteAcceptsOrDrops :
    (fresh inst6).busy = false ∧ decode 0x447#64 = .error .aliasPair ∧ decode 0x217#64 = .ok (.fbfly 1 2) :=
  ⟨rfl, rfl, rfl⟩

theorem witness_AssemblerReadsEveryCommand : (Instr.fmul 15 0 9).wf = true := by decide

theorem witness_AStepRunsTheDecodedCommand :
    ({ busy6 with wait := 0 } : State).pend = some (.fred 1) ∧
    ({ busy6 with wait := 0 } : State).inputs.head? ≠ some .reset ∧
    decodeTableWord 32 0x2131 = some (.fmul 3 1 2) := by decide +kernel

/-- A command pending for two cycles, while the host polls STATUS and writes a limb. -/
theorem witness_APendingCommandCompletesAfterItsLatency :
    ({ busy6 with inputs := [inputRD inst6 0x008, inputWR inst6 0x808 7#64, .idle] } : State).pend = some (.fred 1) ∧
    ({ busy6 with inputs := [inputRD inst6 0x008, inputWR inst6 0x808 7#64, .idle] } : State).inputsInWindow := by
  simp [State.inputsInWindow, inputRD, inputWR, busy6, loaded, fresh, State.writeReg]

theorem witness_CompletionNeverFails : (Instr.fbfly 0 15).wf = true := by decide

theorem witness_ResultsAreReadableAfterCompletion :
    (∃ t, exec (.fbfly 1 2) (loaded inst6 [(1, 3), (2, 5)]) = .next t) ∧ (2 : Reg) ∈ destsOf (.fbfly 1 2) ∧
    5 < inst6.n := ⟨⟨_, rfl⟩, by decide, by decide⟩

/-- Both outcomes of the borrow, at the ends of the range. -/
theorem witness_SubBorrowIsDifferenceAndComparison :
    0 < 2 ^ (64 * 6) ∧ 2 ^ 384 - 1 < 2 ^ (64 * 6) ∧ subBorrow 6 0 (2 ^ 384 - 1) = (1, true) ∧
    subBorrow 6 (2 ^ 384 - 1) 0 = (2 ^ 384 - 1, false) := by decide +kernel

/-- Both outcomes of the carry, at the ends of the range. -/
theorem witness_AddCarryIsSumAndCarry :
    1 < 2 ^ (64 * 6) ∧ 2 ^ 384 - 1 < 2 ^ (64 * 6) ∧ addCarry 6 1 (2 ^ 384 - 1) = (0, true) ∧
    addCarry 6 0 (2 ^ 384 - 1) = (2 ^ 384 - 1, false) := by decide +kernel

theorem witness_SelectIsTheChoice :
    0 < 2 ^ (64 * 6) ∧ 2 ^ 384 - 1 < 2 ^ (64 * 6) ∧ select 6 true 0 (2 ^ 384 - 1) = 0 ∧
    select 6 false 0 (2 ^ 384 - 1) = 2 ^ 384 - 1 := by decide +kernel

/-- Values on both sides of Q, and the largest N-limb value. -/
theorem witness_ReduceSubtractsTheModulusOnce :
    inst6.q - 1 < radix inst6 ∧ inst6.q - 1 < inst6.q ∧ inst6.q < radix inst6 ∧ 2 ^ 384 - 1 < radix inst6 := by
  decide +kernel

/-- 2Q - 1, 2Q and the largest N-limb value are N-limb values on both sides of 2Q. -/
theorem witness_ReduceIsIdempotentBelowTwiceTheModulus :
    2 * inst6.q - 1 < radix inst6 ∧ 2 * inst6.q - 1 < 2 * inst6.q ∧ 2 * inst6.q < radix inst6 ∧
    2 ^ 384 - 1 < radix inst6 ∧ 2 * inst6.q ≤ 2 ^ 384 - 1 ∧ inst6.q - 1 < inst6.q := by decide +kernel

theorem witness_RedcStepDividesExactly : 2 ^ 448 - 1 < 2 ^ (64 * (inst6.n + 1)) := by decide +kernel

/-- The largest canonical operand, and the first and last pass. -/
theorem witness_AccumulatorStaysBelowTwiceTheModulus :
    inst6.q - 1 < inst6.q ∧ 0 < inst6.q ∧ 0 ≤ inst6.n ∧ inst6.n ≤ inst6.n := by decide +kernel

/-- The largest and the smallest canonical operand, at each limb count. -/
theorem witness_canonical_operands :
    inst6.q - 1 < inst6.q ∧ 0 < inst6.q ∧ inst5.q - 1 < inst5.q ∧ 0 < inst5.q ∧ inst10.q - 1 < inst10.q ∧
    0 < inst10.q := by decide +kernel

theorem witness_LimbScheduleComputesMontMul : inst6.q - 1 < inst6.q ∧ 0 < inst6.q := by decide +kernel

theorem witness_MontMulMultipliesEncodings : inst6.q - 1 < inst6.q ∧ 11 < inst6.q := by decide +kernel

theorem witness_MontMulCornerCases : inst6.q - 1 < inst6.q := by decide +kernel

theorem witness_FromMontIsMontMulByOne : inst6.q - 1 < inst6.q := by decide +kernel

theorem witness_SmallConstantChainsMultiply : inst6.q - 1 < inst6.q := by decide +kernel

/-- A pair that borrows and a pair that does not. -/
theorem witness_ButterflyIsSumAndDifference :
    inst6.q - 1 < inst6.q ∧ 0 < inst6.q ∧ ¬ inst6.q - 1 ≤ 0 ∧ 0 ≤ inst6.q - 1 := by decide +kernel

/-- A second value with the property of the product is the product: the hypotheses meet at the vector of section 3. -/
theorem witness_MontMulIsTheMontgomeryProduct :
    0x14fec701e8fb0ce9ed5e64273c4f538b1797ab1458a88de9343ea97914956dc87fe11274d898fafbf4d38259380b4820 < inst6.q ∧
    0x14fec701e8fb0ce9ed5e64273c4f538b1797ab1458a88de9343ea97914956dc87fe11274d898fafbf4d38259380b4820 *
      radix inst6 % inst6.q = (inst6.q - 1) * (inst6.q - 1) % inst6.q := by decide +kernel

theorem witness_FromMontDecodes : 2 ^ 384 - 1 < radix inst6 ∧ 1 < inst6.q ∧
    1 * radix inst6 % inst6.q = radix inst6 % inst6.q := by decide +kernel

theorem witness_in_domain_sources :
    (loaded inst6 [(1, inst6.q - 1), (2, 0)]).canonical 1 = true ∧
    (loaded inst6 [(1, inst6.q - 1), (2, 0)]).canonical 2 = true ∧ (1 : Reg) ≠ 2 := by decide +kernel

theorem witness_FmulWritesTheMontgomeryProduct :
    (loaded inst6 [(1, inst6.q - 1), (2, 0)]).canonical 1 = true ∧
    (loaded inst6 [(1, inst6.q - 1), (2, 0)]).canonical 2 = true := by decide +kernel

theorem witness_FredReducesEveryValue : (loaded inst6 [(6, 2 ^ 384 - 1)]).defined 6 = true := by decide +kernel

theorem witness_FfromDecodesInPlace : (loaded inst6 [(4, inst6.q - 1)]).canonical 4 = true := by decide +kernel

theorem witness_SmallConstantCommandsMultiply : (loaded inst10 [(5, inst10.q - 1)]).canonical 5 = true := by
  decide +kernel

theorem witness_FbflyWritesSumAndDifference :
    (loaded inst5 [(1, 0), (15, inst5.q - 1)]).canonical 1 = true ∧
    (loaded inst5 [(1, 0), (15, inst5.q - 1)]).canonical 15 = true ∧ (1 : Reg) ≠ 15 := by decide +kernel

/-- Q itself is outside the domain, and so is a register never written. -/
theorem witness_OutOfDomainSourcesGiveFreeValues :
    ((loaded inst6 [(1, inst6.q), (2, 5)]).canonical 1 && (loaded inst6 [(1, inst6.q), (2, 5)]).canonical 2) = false ∧
    (loaded inst6 [(1, inst6.q)]).defined 6 = false ∧ (loaded inst6 [(1, inst6.q)]).canonical 1 = false := by
  decide +kernel

theorem witness_InDomainResultsAreCanonical :
    (loaded inst6 [(3, 2 * inst6.q - 1)]).inDomain (.fred 3) = true ∧
    (loaded inst6 [(3, 2 * inst6.q - 1)]).val 3 < 2 * inst6.q ∧
    (loaded inst6 [(1, 0), (2, 5)]).inDomain (.fbfly 1 2) = true ∧
    ∃ t, exec (.fred 3) (loaded inst6 [(3, 2 * inst6.q - 1)]) = .next t := by
  refine ⟨by decide +kernel, by decide +kernel, by decide +kernel, _, rfl⟩

/-- Two polls that find the command pending, its completion, and the poll that returns BUSY = 0. -/
theorem witness_RunResultsAreReadFromAQuiescentState :
    ∃ t, RunResult { busy6 with inputs := inputPOLL inst6 3 } t := by
  refine ⟨_, 3, _, _, rfl, ⟨rfl, rfl, ?_⟩, ?_, 0, _, rfl, rfl, rfl, ?_⟩
  · decide +kernel
  · decide +kernel
  · decide +kernel

/-- Two commands, the second on the result of the first, each polled as long as its latency. -/
theorem witness_CommandSequencesComposeInOrder :
    let prog : List (Instr × Nat) :=
      [(.fmul 3 1 2, Config.latency .fmul .six), (.fbfly 3 1, Config.latency .fbfly .six)]
    let s : State := { loaded inst6 [(1, 3), (2, 5)] with
      inputs := prog.flatMap (fun x => inputCMD inst6 x.1 :: inputPOLL inst6 x.2) }
    prog ≠ [] ∧ s.pend = none ∧ s.err = false ∧
      (∀ x ∈ prog, x.1.wf = true ∧ Config.latency x.1.op s.inst.limbs ≤ x.2) ∧
      s.inputs = prog.flatMap (fun x => inputCMD s.inst x.1 :: inputPOLL s.inst x.2) := by
  refine ⟨by simp, rfl, rfl, ?_, rfl⟩
  intro x hx
  simp only [List.mem_cons, List.not_mem_nil, or_false] at hx
  rcases hx with rfl | rfl <;> exact ⟨by decide, Nat.le_refl _⟩

end Sys2Proof.Tests
end

/-! Scope (00_scope.md): QINV0 as the inverse digit (R9), elements as little-endian limbs and bytes (R12), and the
independence of timing and STATUS from register contents (R19). -/

namespace Sys2Proof.Machine

section InverseDigit

/-- A Newton step squares the error of an inverse. -/
theorem one_sub_mul_inverseStep (q x : Word) : 1 - q * inverseStep q x = (1 - q * x) ^ 2 := by
  have h2 : (2#64 : Word) = 1 + 1 := by decide
  rw [inverseStep, h2]
  ring

/-- Five Newton steps from q itself. -/
theorem one_sub_mul_inverse64 (q : Word) : 1 - q * inverse64 q = (1 - q * q) ^ 32 := by
  simp only [inverse64, one_sub_mul_inverseStep, ← pow_mul]

/-- `inverse64` inverts every odd word: 1 - q² is a multiple of 4, and 4^32 = 0 modulo 2^64. -/
theorem odd_mul_inverse64 (m : Word) : (2 * m + 1) * inverse64 (2 * m + 1) = 1 := by
  have hpow : (4 : Word) ^ 32 = 0 := by decide
  have hsq : 1 - (2 * m + 1) * (2 * m + 1) = 4 * -(m * m + m) := by ring
  have herr : 1 - (2 * m + 1) * inverse64 (2 * m + 1) = 0 := by
    rw [one_sub_mul_inverse64, hsq, mul_pow, hpow, zero_mul]
  exact (sub_eq_zero.mp herr).symm

variable (c : Inst)

/-- Q is odd (R9), so `inverse64` inverts its low word. -/
theorem Inst.q_mul_inverse64 : BitVec.ofNat 64 c.q * inverse64 (BitVec.ofNat 64 c.q) = 1 := by
  have hodd : BitVec.ofNat 64 c.q = 2 * BitVec.ofNat 64 (c.q / 2) + 1 := by
    have := c.odd
    bv_omega
  rw [hodd]
  exact odd_mul_inverse64 _

/-- QINV0 is the one word x with Q x = -1 modulo 2^64 (R9). -/
theorem q_mul_eq_neg_one_iff (x : Word) : BitVec.ofNat 64 c.q * x = -1 ↔ x = qinv0 c := by
  have hinv := Inst.q_mul_inverse64 c
  unfold qinv0
  generalize BitVec.ofNat 64 c.q = q at hinv ⊢
  constructor
  · intro h
    calc x = q * inverse64 q * x := by rw [hinv, one_mul]
      _ = inverse64 q * (q * x) := by ring
      _ = -inverse64 q := by rw [h, mul_neg, mul_one]
  · rintro rfl
    rw [mul_neg, hinv]

/-- The equation of R9 on integers is the one on words. -/
theorem q_mul_mod_iff (x : Word) :
    c.q * x.toNat % 2 ^ 64 = 2 ^ 64 - 1 ↔ BitVec.ofNat 64 c.q * x = -1 := by
  rw [← BitVec.toNat_inj, BitVec.toNat_mul, BitVec.toNat_ofNat, Nat.mod_mul_mod]
  rfl

end InverseDigit

/-- Settles O12: on words, QINV0 is the only solution of Q x = -1. -/
theorem qinv0IsTheInverseDigit : Obligations.Qinv0IsTheInverseDigit := by
  unfold Obligations.Qinv0IsTheInverseDigit
  refine fun c => ⟨(q_mul_mod_iff c _).2 ((q_mul_eq_neg_one_iff c _).2 rfl), fun x hx h => ?_⟩
  have hword : (BitVec.ofNat 64 x).toNat = x := Nat.mod_eq_of_lt hx
  rw [← hword] at h
  rw [← (q_mul_eq_neg_one_iff c _).1 ((q_mul_mod_iff c _).1 h), hword]

section LittleEndian

/-- The limbs of an element are the limbs of its value (R12). -/
theorem State.limbs_eq_limbsOf (s : State) (r : Reg) (n : Nat) :
    (List.range n).map (fun j => (s.limb r j).toNat) = limbsOf n (s.val r) := by
  simp only [State.limb_toNat, limbsOf]

/-- Byte k of a limb is a byte of the value, when it lies in the limb (R53). -/
theorem Elem.byteLane_limb {n : Nat} (e : Elem n) (j k : Nat) (hk : k < 8) :
    byteLane (e.limb j) k = e.value.extractLsb' (8 * (8 * j + k)) 8 := by
  ext b hb
  have hin : 8 * k + b < 64 := by omega
  have hbit : 64 * j + (8 * k + b) = 8 * (8 * j + k) + b := by ring
  simp [byteLane, Elem.limb, hin, hbit]

end LittleEndian

/-- Settles O21: an element is rebuilt from the limbs of its value, and a byte of a limb is cut from the value's bits. -/
theorem elementsAreLittleEndian : Obligations.ElementsAreLittleEndian := by
  unfold Obligations.ElementsAreLittleEndian
  refine fun s r => ⟨?_, fun j _ k hk => ?_⟩
  · rw [State.limbs_eq_limbsOf, valOf_limbsOf, Nat.mod_eq_of_lt (s.val_lt r)]
  · rw [State.limb, Elem.byteLane_limb _ j k hk, BitVec.extractLsb'_toNat, Nat.shiftRight_eq_div_pow]
    rfl

section Timing

/-- The state without its data: the registers, the reply and the count of draws are forgotten. What remains is all that
acceptance, completion and STATUS depend on (R19). -/
def State.withoutData (s : State) : State := { s.blankRegs with reply := [], draws := 0 }

/-- An outcome of a step, without the data of the next state. -/
def outcomeWithoutData : Host.Outcome State Fault Refusal → Host.Outcome State Fault Refusal
  | .next s => .next s.withoutData
  | .fault r => .fault r
  | .refused r => .refused r

theorem outcomeWithoutData_eq_next {o : Host.Outcome State Fault Refusal} {u : State}
    (h : outcomeWithoutData o = .next u) : ∃ t, o = .next t ∧ t.withoutData = u := by
  cases o with
  | next t => exact ⟨t, rfl, Host.Outcome.next.inj h⟩
  | fault r => cases h
  | refused r => cases h

variable (s : State)

@[simp] theorem State.withoutData_inst : s.withoutData.inst = s.inst := rfl
@[simp] theorem State.withoutData_err : s.withoutData.err = s.err := rfl
@[simp] theorem State.withoutData_pend : s.withoutData.pend = s.pend := rfl
@[simp] theorem State.withoutData_wait : s.withoutData.wait = s.wait := rfl
@[simp] theorem State.withoutData_busy : s.withoutData.busy = s.busy := rfl
@[simp] theorem State.withoutData_inputs : s.withoutData.inputs = s.inputs := rfl
@[simp] theorem State.withoutData_statusWord : s.withoutData.statusWord = s.statusWord := rfl
@[simp] theorem State.withoutData_completing : s.withoutData.completing = s.completing := rfl
@[simp] theorem State.withoutData_withoutData : s.withoutData.withoutData = s.withoutData := rfl

/-! ### What each operation leaves of the data-free state -/

@[simp] theorem State.countDraw_withoutData : s.countDraw.withoutData = s.withoutData := rfl
@[simp] theorem State.answer_withoutData (bytes : List Byte) : (s.answer bytes).withoutData = s.withoutData := rfl
@[simp] theorem State.writeLimb_withoutData (r : Reg) (j : Nat) (w : Word) :
    (s.writeLimb r j w).withoutData = s.withoutData := rfl
@[simp] theorem State.retire_withoutData : s.retire.withoutData = s.withoutData.retire := rfl
@[simp] theorem State.accept_withoutData (i : Instr) : (s.accept i).withoutData = s.withoutData.accept i := rfl

@[simp] theorem State.writeResult_withoutData (r : Reg) (res : Option Nat) :
    (s.writeResult r res).withoutData = s.withoutData := by
  cases res <;> rfl

@[simp] theorem State.raiseError_withoutData (e : CmdError) :
    (s.raiseError e).withoutData = s.withoutData.raiseError e := by
  unfold State.raiseError
  rw [State.withoutData_err]
  split <;> rfl

@[simp] theorem State.clearErrors_withoutData (v : Word) :
    (s.clearErrors v).withoutData = s.withoutData.clearErrors v := by
  unfold State.clearErrors
  split
  · rfl
  · split <;> rfl

@[simp] theorem State.cmdWrite_withoutData (v : Word) :
    (s.cmdWrite v).withoutData = s.withoutData.cmdWrite v := by
  unfold State.cmdWrite
  rw [State.withoutData_busy]
  split
  · exact s.raiseError_withoutData _
  · split
    · exact s.raiseError_withoutData _
    · rfl

theorem State.hostRead_withoutData (off : BitVec 12) : (s.hostRead off).2.withoutData = s.withoutData := by
  obtain hs | hs := s.hostRead_state off <;> rw [hs]
  rfl

theorem State.hostWrite_withoutData (off : BitVec 12) (v : Word) :
    (s.hostWrite off v).withoutData = (s.withoutData.hostWrite off v).withoutData := by
  unfold State.hostWrite
  rw [State.withoutData_inst]
  cases portAt s.inst.n off with
  | id | status | cmd | qinv0 | modulus | reserved => simp
  | element r j => cases hb : s.busy <;> simp [hb]

/-! ### Accesses, cycles, completions and steps see the data-free state only -/

theorem State.busRead_withoutData (addr len : Nat) :
    outcomeWithoutData (s.busRead addr len) = outcomeWithoutData (s.withoutData.busRead addr len) := by
  unfold State.busRead
  rw [State.withoutData_inst]
  cases windowOffset s.inst addr with
  | none => rfl
  | some off =>
    dsimp only
    split <;> simp [outcomeWithoutData, State.hostRead_withoutData]

theorem State.busWrite_withoutData (addr : Nat) (bytes : List Byte) :
    outcomeWithoutData (s.busWrite addr bytes) = outcomeWithoutData (s.withoutData.busWrite addr bytes) := by
  unfold State.busWrite
  rw [State.withoutData_inst]
  cases windowOffset s.inst addr with
  | none => rfl
  | some off =>
    dsimp only
    split
    · exact congrArg Host.Outcome.next (s.hostWrite_withoutData off _)
    · simp [outcomeWithoutData]

theorem State.hostCycle_withoutData :
    outcomeWithoutData s.hostCycle = outcomeWithoutData s.withoutData.hostCycle := by
  unfold State.hostCycle
  rw [State.withoutData_inputs]
  cases s.inputs with
  | nil => rfl
  | cons x rest =>
    cases x with
    | idle => rfl
    | reset => rfl
    | read addr len => exact State.busRead_withoutData _ addr len
    | write addr bytes => exact State.busWrite_withoutData _ addr bytes

/-- A completion that writes one result leaves only PEND and BUSY changed, beside data (R63). -/
theorem writeResult_retire_withoutData (r : Reg) (res : Option Nat) :
    outcomeWithoutData (.next (s.writeResult r res).retire) = .next s.withoutData.retire := by
  simp [outcomeWithoutData]

/-- Whether a completion is possible, and what it does beside its data, is fixed by the command (R63). -/
theorem exec_withoutData (i : Instr) :
    outcomeWithoutData (exec i s) =
      if i.wf then .next s.withoutData.retire else .refused .aliasedButterfly := by
  cases i with
  | fmul | fred | ffrom | fmul3 | fmul5 | fmul13 => exact writeResult_retire_withoutData s _ _
  | fbfly rd ra =>
    by_cases h : rd = ra <;> simp [exec, execFbfly, outcomeWithoutData, Instr.wf, h]

/-- A step depends on the data in its data only (R19, R241). -/
theorem step_withoutData : outcomeWithoutData (step s) = outcomeWithoutData (step s.withoutData) := by
  unfold step
  rw [State.withoutData_completing]
  cases s.completing with
  | some i => simp only [exec_withoutData, State.withoutData_withoutData]
  | none => exact s.hostCycle_withoutData

end Timing

/-- Settles O32: two states that differ in register contents are equal without their data, and so are their steps. -/
theorem timingAndStatusDoNotDependOnRegisters : Obligations.TimingAndStatusDoNotDependOnRegisters := by
  unfold Obligations.TimingAndStatusDoNotDependOnRegisters
  intro s t regs h
  have hstep : outcomeWithoutData (step { s with regs := regs }) = .next t.withoutData :=
    calc outcomeWithoutData (step { s with regs := regs })
        = outcomeWithoutData (step s.withoutData) := step_withoutData _
      _ = outcomeWithoutData (step s) := (step_withoutData s).symm
      _ = .next t.withoutData := by rw [h]; rfl
  obtain ⟨t', ht', heq⟩ := outcomeWithoutData_eq_next hstep
  exact ⟨t', ht', by simpa using congrArg State.pend heq, by simpa using congrArg State.wait heq,
    by simpa using congrArg State.statusWord heq, by simpa using congrArg State.inputs heq⟩

end Sys2Proof.Machine

/-! State (10_state.md): the reset state, the invariants of STATUS, of PEND and of the registers, what a step can change
of the constants, the registers and the error fields, the words of STATUS and ID, and the assembler. -/

namespace Sys2Proof.Machine

section SameRegister

variable (s : State)

theorem SameReg.refl (r : Reg) : SameReg s s r := ⟨rfl, fun _ => ⟨rfl, rfl⟩⟩

theorem SameReg.trans {s t u : State} {r : Reg} (hst : SameReg s t r) (htu : SameReg t u r) : SameReg s u r :=
  ⟨htu.1.trans hst.1, fun j => ⟨(htu.2 j).1.trans (hst.2 j).1, (htu.2 j).2.trans (hst.2 j).2⟩⟩

theorem State.raiseError_sameRegs (e : CmdError) : SameRegs s (s.raiseError e) := fun r =>
  ⟨s.raiseError_val e r, fun j => ⟨s.raiseError_limb e r j, s.raiseError_limbWritten e r j⟩⟩

theorem State.clearErrors_sameRegs (v : Word) : SameRegs s (s.clearErrors v) := fun r =>
  ⟨s.clearErrors_val v r, fun j => ⟨s.clearErrors_limb v r j, s.clearErrors_limbWritten v r j⟩⟩

/-- A CMD write changes no register (R61). -/
theorem State.cmdWrite_sameRegs (v : Word) : SameRegs s (s.cmdWrite v) := by
  unfold State.cmdWrite
  split
  · exact s.raiseError_sameRegs _
  · split
    · exact s.raiseError_sameRegs _
    · exact SameReg.refl s

variable {r q : Reg} (h : q ≠ r)
include h

theorem State.writeResult_sameReg_other (res : Option Nat) : SameReg s (s.writeResult r res) q :=
  ⟨s.writeResult_val_other res h,
    fun j => ⟨s.writeResult_limb_other res h j, s.writeResult_limbWritten_other res h j⟩⟩

theorem State.writeLimb_sameReg_other (j : Nat) (w : Word) : SameReg s (s.writeLimb r j w) q := by
  have helem := s.writeLimb_elem_other j w h
  unfold SameReg State.val State.limb State.limbWritten
  rw [helem]
  exact ⟨rfl, fun _ => ⟨rfl, rfl⟩⟩

end SameRegister

section Completion

/-- The writes of a command's results to its destinations, in order (R63). -/
def State.writeResults (s : State) (results : List (Reg × Option Nat)) : State :=
  results.foldl (fun u x => u.writeResult x.1 x.2) s

/-- A write of results leaves every other register as it was. -/
theorem State.writeResults_sameReg_other (s : State) (results : List (Reg × Option Nat)) {q : Reg}
    (h : q ∉ results.map Prod.fst) : SameReg s (s.writeResults results) q := by
  induction results generalizing s with
  | nil => exact SameReg.refl s q
  | cons x rest ih =>
    rw [List.map_cons, List.mem_cons, not_or] at h
    exact (s.writeResult_sameReg_other h.1 x.2).trans (ih _ h.2)

variable {s t : State} {i : Instr}

/-- A completion that answers a next state is that of a legal command, and leaves only PEND and BUSY changed, beside
data (R63). -/
theorem exec_next_withoutData (h : exec i s = .next t) : i.wf = true ∧ t.withoutData = s.withoutData.retire := by
  have hdata := exec_withoutData s i
  rw [h] at hdata
  split at hdata
  · exact ⟨‹_›, Host.Outcome.next.inj hdata⟩
  · cases hdata

theorem exec_next_sameConstants (h : exec i s = .next t) : SameConstants s t :=
  (congrArg State.inst (exec_next_withoutData h).2 :)

theorem exec_next_pend (h : exec i s = .next t) : t.pend = none :=
  (congrArg State.pend (exec_next_withoutData h).2 :)

theorem exec_next_wait (h : exec i s = .next t) : t.wait = 0 :=
  (congrArg State.wait (exec_next_withoutData h).2 :)

/-- A completion leaves the error fields as they were (R201). -/
theorem exec_next_sameStatus (h : exec i s = .next t) : SameStatus s t :=
  have hdata := (exec_next_withoutData h).2
  ⟨(congrArg State.err hdata :), (congrArg State.errovf hdata :), (congrArg State.errcode hdata :)⟩

/-- A completion writes one result to each destination of the command, and retires it (R63). -/
theorem exec_next_writeResults (h : exec i s = .next t) :
    ∃ results, results.map Prod.fst = destsOf i ∧ t = (s.writeResults results).retire := by
  cases i with
  | fmul rd | fred rd | ffrom rd | fmul3 rd | fmul5 rd | fmul13 rd =>
    cases h
    exact ⟨[(rd, _)], rfl, rfl⟩
  | fbfly rd ra =>
    change execFbfly rd ra s = .next t at h
    unfold execFbfly at h
    split at h
    · cases h
    · cases h
      exact ⟨[(rd, _), (ra, _)], rfl, rfl⟩

/-- A completion leaves every register that is no destination of the command as it was (R63). -/
theorem exec_next_sameReg_other (h : exec i s = .next t) {q : Reg} (hq : q ∉ destsOf i) : SameReg s t q := by
  obtain ⟨results, hdests, rfl⟩ := exec_next_writeResults h
  exact s.writeResults_sameReg_other results (hdests ▸ hq)

end Completion

section Invariant

/-! ### The invariant of STATUS -/

theorem State.StatusInv.of_sameStatus {s t : State} (hs : s.StatusInv) (h : SameStatus s t) : t.StatusInv := by
  obtain ⟨herr, herrovf, herrcode⟩ := h
  unfold State.StatusInv
  rw [herr, herrovf, herrcode]
  exact hs

/-- No error of R200 has the code 0, and none a code above 0x06. -/
theorem errorCode_ne_zero_and_le (e : CmdError) : e.code ≠ 0#8 ∧ e.code.toNat ≤ 6 := by
  cases e <;> decide

theorem State.StatusInv.raiseError {s : State} (hs : s.StatusInv) (e : CmdError) : (s.raiseError e).StatusInv := by
  obtain ⟨hzero, -, hle⟩ := hs
  obtain ⟨hne, hcode⟩ := errorCode_ne_zero_and_le e
  obtain ⟨herr, heq⟩ | ⟨-, heq⟩ := s.raiseError_cases e <;> rw [heq]
  · exact ⟨hzero, fun _ => herr, hle⟩
  · exact ⟨by simp [hne], fun _ => rfl, hcode⟩

theorem State.StatusInv.clearErrors {s : State} (hs : s.StatusInv) (v : Word) : (s.clearErrors v).StatusInv := by
  obtain ⟨hzero, herrovf, hle⟩ := hs
  obtain heq | heq | heq := s.clearErrors_cases v <;> rw [heq]
  · exact ⟨by simp, by simp, by simp⟩
  · exact ⟨hzero, by simp, hle⟩
  · exact ⟨hzero, herrovf, hle⟩

/-! ### The invariant of PEND -/

/-- The decoder answers legal commands only (R85). -/
theorem wf_of_decode {v : Word} {i : Instr} (h : decode v = .ok i) : i.wf = true := by
  unfold decode at h
  split at h
  · cases h
  · rename_i op _
    split at h
    · cases h
    split at h
    · cases h
    split at h
    · cases h
    split at h
    · cases h
    · rename_i halias
      cases h
      cases op with
      | fbfly => simpa [Op.format, Op.build, Instr.wf] using halias
      | fmul | fred | ffrom | fmul3 | fmul5 | fmul13 => rfl

theorem State.PendInv.of_samePending {s t : State} (hs : s.PendInv) (h : SamePending s t) : t.PendInv := by
  obtain ⟨hpend, hwait⟩ := h
  unfold State.PendInv
  rw [hpend, hwait]
  exact hs

/-! ### The canonical form of the registers -/

/-- A register that is the same in another state has the canonical form there. -/
theorem State.RegsInv.limb_of_sameReg {s t : State} (hs : s.RegsInv) {r : Reg} (h : SameReg s t r) {j : Nat}
    (hj : j < s.inst.n) (hw : t.limbWritten r j = false) : t.limb r j = 0#64 := by
  obtain ⟨hlimb, hwritten⟩ := h.2 j
  rw [hlimb]
  exact hs r j hj (hwritten ▸ hw)

theorem State.RegsInv.of_sameRegs {s t : State} (hs : s.RegsInv) (hinst : SameConstants s t) (h : SameRegs s t) :
    t.RegsInv :=
  fun r _ hj hw => hs.limb_of_sameReg (h r) (hinst ▸ hj) hw

theorem State.RegsInv.writeResult {s : State} (hs : s.RegsInv) (r : Reg) (res : Option Nat) :
    (s.writeResult r res).RegsInv := by
  intro q j hj hw
  rw [s.writeResult_inst r res] at hj
  by_cases hq : q = r
  · rw [hq, s.writeResult_limbWritten_same r res j] at hw
    exact absurd hj (of_decide_eq_false hw)
  · exact hs.limb_of_sameReg (s.writeResult_sameReg_other hq res) hj hw

theorem State.RegsInv.writeResults {s : State} (hs : s.RegsInv) (results : List (Reg × Option Nat)) :
    (s.writeResults results).RegsInv := by
  induction results generalizing s with
  | nil => exact hs
  | cons x rest ih => exact ih (hs.writeResult x.1 x.2)

theorem State.RegsInv.writeLimb {s : State} (hs : s.RegsInv) (r : Reg) (j : Nat) (w : Word) :
    (s.writeLimb r j w).RegsInv := by
  intro q k hk hw
  rw [s.writeLimb_inst r j w] at hk
  by_cases hq : q = r
  · rw [hq, s.writeLimb_limbWritten_same r j w k, Bool.or_eq_false_iff] at hw
    have hkj : k ≠ j := fun he => of_decide_eq_false hw.1 ⟨he, hk⟩
    rw [hq, s.writeLimb_limb_otherLimb r j w k hkj]
    exact hs r k hk hw.2
  · exact hs.limb_of_sameReg (s.writeLimb_sameReg_other hq j w) hk hw

/-! ### The invariant of the machine, event by event -/

/-- The invariant holds under reset, whatever the state was (R230). -/
theorem State.underReset_inv (s : State) : s.underReset.Inv :=
  ⟨⟨by simp, by simp, by simp⟩, ⟨by simp, by simp⟩, fun r j _ _ => s.underReset_limb r j⟩

/-- A cycle of latency passes: the invariant does not see the inputs. -/
theorem State.Inv.cycle {s : State} (hs : s.Inv) (rest : List HostInput) : (s.cycle rest).Inv := by
  obtain ⟨hstatus, ⟨hlegal, hwait⟩, hregs⟩ := hs
  exact ⟨hstatus, ⟨hlegal, fun hp => by simp [State.cycle, hwait hp]⟩, hregs⟩

theorem State.Inv.completion {s t : State} {i : Instr} (hs : s.Inv) (h : exec i s = .next t) : t.Inv := by
  obtain ⟨hstatus, -, hregs⟩ := hs
  refine ⟨hstatus.of_sameStatus (exec_next_sameStatus h), ⟨?_, fun _ => exec_next_wait h⟩, ?_⟩
  · simp [exec_next_pend h]
  · obtain ⟨results, -, rfl⟩ := exec_next_writeResults h
    exact hregs.writeResults results

theorem State.Inv.write {s t : State} (hs : s.Inv) (h : WriteEffect s t) : t.Inv := by
  obtain ⟨hstatus, hpend, hregs⟩ := hs
  cases h with
  | error e =>
    exact ⟨hstatus.raiseError e, hpend.of_samePending ⟨s.raiseError_pend e, s.raiseError_wait e⟩,
      hregs.of_sameRegs (s.raiseError_inst e) (s.raiseError_sameRegs e)⟩
  | clear v =>
    exact ⟨hstatus.clearErrors v, hpend.of_samePending ⟨s.clearErrors_pend v, s.clearErrors_wait v⟩,
      hregs.of_sameRegs (s.clearErrors_inst v) (s.clearErrors_sameRegs v)⟩
  | accept v i _ hdec =>
    refine ⟨hstatus, ⟨fun i' hi' => ?_, nofun⟩, hregs⟩
    obtain rfl : i = i' := Option.some.inj hi'
    exact wf_of_decode hdec
  | limb r j v => exact ⟨hstatus, hpend, hregs.writeLimb r j v⟩

end Invariant

/-- Settles O4: each event a step can be keeps the invariant. -/
theorem everyStepKeepsTheInvariant : Obligations.EveryStepKeepsTheInvariant := by
  unfold Obligations.EveryStepKeepsTheInvariant
  intro s t hs h
  cases step_effect s t h with
  | complete i _ _ he => exact hs.completion he
  | quiet => exact hs.cycle s.inputs
  | idle rest => exact hs.cycle rest
  | reset rest => exact State.underReset_inv _
  | read rest _ _ _ bytes _ _ he => obtain rfl | rfl := he <;> exact hs.cycle rest
  | write rest _ _ _ _ _ he => exact (hs.cycle rest).write he

section RegisterWrites

variable (s : State) (r : Reg)

/-- A write in the window leaves a register as it was, or it is a write of one of its limbs with no command pending
(R58, R62). -/
theorem State.hostWrite_reg_cases (off : BitVec 12) (v : Word) :
    SameReg s (s.hostWrite off v) r ∨
      ∃ j, portAt s.inst.n off = .element r j ∧ s.busy = false ∧ j < s.inst.n ∧ (s.hostWrite off v).limb r j = v := by
  have hstands := portAt_inv (n := s.inst.n) off
  unfold State.hostWrite
  cases hport : portAt s.inst.n off with
  | id | qinv0 | modulus | reserved => exact .inl (s.raiseError_sameRegs _ r)
  | status => exact .inl (s.clearErrors_sameRegs v r)
  | cmd => exact .inl (s.cmdWrite_sameRegs v r)
  | element q j =>
    rw [hport] at hstands
    obtain ⟨-, -, -, -, hj⟩ := hstands
    dsimp only
    cases hbusy : s.busy with
    | true => exact .inl (s.raiseError_sameRegs _ r)
    | false =>
      by_cases hr : r = q
      · subst hr
        exact .inr ⟨j, rfl, rfl, hj, s.writeLimb_limb_same r j v hj⟩
      · exact .inl (s.writeLimb_sameReg_other hr j v)

/-- Only one aligned offset names a limb (R51, R52). -/
theorem elementOffset_of_portAt {n : Nat} {off : BitVec 12} {r : Reg} {j : Nat} (hport : portAt n off = .element r j)
    (haligned : off.toNat % 8 = 0) : off.toNat = elementOffset r j := by
  have hstands := portAt_inv (n := n) off
  rw [hport] at hstands
  obtain ⟨hge, -, hr, hj, -⟩ := hstands
  unfold elementOffset
  omega

/-- An address in the window is BASE and its offset (R50). -/
theorem addr_of_windowOffset {c : Inst} {addr : Nat} {off : BitVec 12} (h : windowOffset c addr = some off) :
    addr = c.base + off.toNat := by
  unfold windowOffset at h
  split at h
  · cases h
    rw [offset_toNat _ (by omega)]
    omega
  · cases h

/-- A write on the bus leaves a register as it was, or it is a 64-bit write of one of its limbs with no command pending
(R54, R58, R62). -/
theorem State.busWrite_reg_cases {t : State} {addr : Nat} {bytes : List Byte} (h : s.busWrite addr bytes = .next t) :
    SameReg s t r ∨
      ∃ j, s.busy = false ∧ j < s.inst.n ∧ bytes.length = 8 ∧ addr = s.inst.base + elementOffset r j ∧
        t.limb r j = wordOfBytes bytes := by
  unfold State.busWrite at h
  split at h
  · cases h
  · rename_i off hoff
    split at h
    · rename_i hdef
      obtain ⟨hlen, haligned⟩ := of_decide_eq_true hdef
      cases h
      refine (s.hostWrite_reg_cases r off (wordOfBytes bytes)).imp_right ?_
      rintro ⟨j, hport, hbusy, hj, hlimb⟩
      exact ⟨j, hbusy, hj, hlen, elementOffset_of_portAt hport haligned ▸ addr_of_windowOffset hoff, hlimb⟩
    · cases h
      exact .inl (s.raiseError_sameRegs _ r)

/-- The step that performs a write. -/
theorem step_write {addr : Nat} {bytes : List Byte} {rest : List HostInput} (hc : s.completing = none)
    (hin : s.inputs = .write addr bytes :: rest) : step s = (s.cycle rest).busWrite addr bytes := by
  unfold step State.hostCycle
  simp only [hc, hin, State.cycle]

/-- A reset at the front of the inputs is asserted (R230). -/
theorem State.resetAsserted_of_inputs {rest : List HostInput} (hin : s.inputs = .reset :: rest) :
    s.resetAsserted = true := by
  simp [State.resetAsserted, hin]

end RegisterWrites

/-- Settles O6: of the events a step can be, a completion writes its destinations, a reset is named, and a write on the
bus is one limb's or leaves the register. -/
theorem registersChangeOnlyByTheseEvents : Obligations.RegistersChangeOnlyByTheseEvents := by
  unfold Obligations.RegistersChangeOnlyByTheseEvents
  intro s t r h
  cases step_effect s t h with
  | complete i _ hc he =>
    by_cases hr : r ∈ destsOf i
    · exact .inr (.inr (.inl ⟨i, hc, hr⟩))
    · exact .inl (exec_next_sameReg_other he hr)
  | quiet | idle => exact .inl (SameReg.refl s r)
  | reset rest hin => exact .inr (.inl (s.resetAsserted_of_inputs hin))
  | read _ _ _ _ _ _ _ he => obtain rfl | rfl := he <;> exact .inl (SameReg.refl s r)
  | write rest addr bytes _ hc hin =>
    rw [step_write s hc hin] at h
    obtain hsame | ⟨j, hbusy, hj, hlen, rfl, hlimb⟩ := State.busWrite_reg_cases _ r h
    · exact .inl hsame
    · exact .inr (.inr (.inr ⟨bytes, rest, j, hc, hbusy, hj, hlen, hin, hlimb⟩))

section Constants

theorem WriteEffect.sameConstants {s t : State} (h : WriteEffect s t) : SameConstants s t := by
  cases h with
  | error e => exact s.raiseError_inst e
  | clear v => exact s.clearErrors_inst v
  | accept | limb => rfl

/-- No step changes N, Q or BASE (R231). -/
theorem step_sameConstants {s t : State} (h : step s = .next t) : SameConstants s t := by
  cases step_effect s t h with
  | complete _ _ _ he => exact exec_next_sameConstants he
  | quiet | idle | reset => rfl
  | read _ _ _ _ _ _ _ he => obtain rfl | rfl := he <;> rfl
  | write rest _ _ _ _ _ he => exact he.sameConstants

end Constants

/-- Settles O5: the words are computed from the constants, which no step changes. -/
theorem noStepChangesTheConstants : Obligations.NoStepChangesTheConstants := by
  unfold Obligations.NoStepChangesTheConstants
  intro s t h
  have hinst : t.inst = s.inst := step_sameConstants h
  rw [hinst]
  exact ⟨rfl, rfl, rfl, fun _ => rfl⟩

/-- Settles O7: a completion, a read and a cycle without an access keep the error fields. -/
theorem errorStateChangesOnlyByWritesAndReset : Obligations.ErrorStateChangesOnlyByWritesAndReset := by
  unfold Obligations.ErrorStateChangesOnlyByWritesAndReset
  intro s t h
  cases step_effect s t h with
  | complete _ _ _ he => exact .inl (exec_next_sameStatus he)
  | quiet | idle => exact .inl ⟨rfl, rfl, rfl⟩
  | reset rest hin => exact .inr (.inl (s.resetAsserted_of_inputs hin))
  | read _ _ _ _ _ _ _ he => obtain rfl | rfl := he <;> exact .inl ⟨rfl, rfl, rfl⟩
  | write rest addr bytes _ hc hin => exact .inr (.inr ⟨addr, bytes, rest, hc, hin⟩)

section Words

/-- Fields side by side: the upper one counts in units of the lower one's size. -/
theorem toNat_append_eq_add {m n : Nat} (x : BitVec m) (y : BitVec n) :
    (x ++ y).toNat = x.toNat * 2 ^ n + y.toNat := by
  rw [BitVec.toNat_append, ← Nat.shiftLeft_add_eq_or_of_lt y.isLt, Nat.shiftLeft_eq]

/-- A word Q[j] is limb j of Q (R28). -/
theorem modulusWord_toNat (c : Inst) (j : Nat) : (modulusWord c j).toNat = limb c.q j :=
  Nat.mod_eq_of_lt (limb_lt c.q j)

end Words

/-- Settles O11: the fields of ID side by side, and Q as the value of its limbs. -/
theorem constantWordsDescribeTheInstance : Obligations.ConstantWordsDescribeTheInstance := by
  unfold Obligations.ConstantWordsDescribeTheInstance
  refine fun c => ⟨?_, ?_⟩
  · have hn : c.n ≤ 10 := c.limbs.toNat_le
    simp only [idWord, toNat_append_eq_add, BitVec.toNat_ofNat]
    omega
  · simp only [modulusWord_toNat]
    exact (valOf_limbsOf c.n c.q).trans (Nat.mod_eq_of_lt c.q_lt_radix)

/-- Reset leaves the reset state as it is (R230). -/
theorem State.reset_underReset : State.reset.underReset = State.reset := rfl

/-- Settles O1: the fields are as written, and the limbs are those that a reset leaves. -/
theorem resetStateIsTheSpecsResetState : Obligations.ResetStateIsTheSpecsResetState := by
  unfold Obligations.ResetStateIsTheSpecsResetState
  exact ⟨rfl, rfl, rfl, rfl, rfl, rfl, rfl, State.underReset_limbWritten State.reset⟩

/-- Settles O3: the reset state is a state under reset. -/
theorem resetMeetsTheInvariant : Obligations.ResetMeetsTheInvariant := by
  unfold Obligations.ResetMeetsTheInvariant
  exact State.reset_underReset ▸ State.reset.underReset_inv

/-- Settles O10: the fields of STATUS side by side. -/
theorem statusWordHasItsFields : Obligations.StatusWordHasItsFields := by
  unfold Obligations.StatusWordHasItsFields
  intro s
  simp only [State.statusWord, toNat_append_eq_add, BitVec.toNat_ofBool, BitVec.toNat_ofNat]
  omega

section Assembler

/-- A register's name is read back as the register (R21). -/
@[simp] theorem regOfName_regName : ∀ r : Reg, regOfName (regName r) = some r := by decide

/-- The assembler reads back a legal command from its mnemonic and operands (R89). -/
theorem assemble_mnemonicOf_operandsOf (i : Instr) (h : i.wf = true) :
    assemble (mnemonicOf i) (operandsOf i) = some i := by
  cases i with
  | fmul | fred | ffrom | fmul3 | fmul5 | fmul13 => simp [assemble, mnemonicOf, operandsOf]
  | fbfly rd ra =>
    have hne : rd ≠ ra := of_decide_eq_true h
    simp [assemble, mnemonicOf, operandsOf, hne]

end Assembler

/-- Settles O29: register names are read back, and the command word is a sum of its fields. -/
theorem assemblerReadsEveryCommand : Obligations.AssemblerReadsEveryCommand := by
  unfold Obligations.AssemblerReadsEveryCommand
  exact ⟨assemble_mnemonicOf_operandsOf, fun d => by simp [assemble], fun d a => by simp [assemble, fsqr],
    encode_toNat⟩

end Sys2Proof.Machine

/-! Memory (20_memory.md): what a read and a write do at every offset of the window, the accesses a step performs, the
load of an element, the latency and the completion of a command, and polled sequences of commands. -/

namespace Sys2Proof.Machine

section WindowMap

/-- A slot of 16 limbs holds an element, whatever N is (R52). -/
theorem limbCount_le_sixteen (c : Inst) : c.n ≤ 16 :=
  c.limbs.toNat_le.trans (by decide)

/-- The offset of limb j of E[r] names that limb (R51). -/
theorem portAt_elementOffset (c : Inst) (r : Reg) {j : Nat} (hj : j < c.n) :
    portAt c.n (BitVec.ofNat 12 (elementOffset r j)) = .element r j :=
  portAt_element (limbCount_le_sixteen c) r j hj

/-- An offset of limb j of E[r] is an aligned one of the window (R51). -/
theorem elementOffset_lt_and_aligned (c : Inst) (r : Reg) {j : Nat} (hj : j < c.n) :
    elementOffset r j < 4096 ∧ elementOffset r j % 8 = 0 := by
  have hn := limbCount_le_sixteen c
  have hr := r.isLt
  unfold elementOffset
  omega

/-- The reserved offsets among the aligned ones (R52). -/
theorem portAt_reserved {n : Nat} (off : BitVec 12)
    (h : (0x020 ≤ off.toNat ∧ off.toNat < 0x100) ∨ (0x100 + 8 * n ≤ off.toNat ∧ off.toNat < 0x800) ∨
      (0x800 ≤ off.toNat ∧ 8 * n ≤ (off.toNat - 0x800) % 0x80)) (hn : n ≤ 16) :
    portAt n off = .reserved := by
  have hstands := portAt_inv (n := n) off
  cases hport : portAt n off <;> rw [hport] at hstands <;> simp only [PortStands] at hstands
  case id | status | cmd | qinv0 | modulus | element => exfalso; omega

end WindowMap

section HostReads

variable (s : State)

@[simp] theorem State.hostRead_id : s.hostRead 0x000#12 = (idWord s.inst, s) := rfl

@[simp] theorem State.hostRead_status : s.hostRead 0x008#12 = (s.statusWord, s) := rfl

@[simp] theorem State.hostRead_cmd : s.hostRead 0x010#12 = (0#64, s) := rfl

@[simp] theorem State.hostRead_qinv0 : s.hostRead 0x018#12 = (qinv0 s.inst, s) := rfl

theorem State.hostRead_modulus {j : Nat} (hj : j < s.inst.n) :
    s.hostRead (BitVec.ofNat 12 (0x100 + 8 * j)) = (modulusWord s.inst j, s) := by
  rw [State.hostRead, portAt_modulus (limbCount_le_sixteen s.inst) j hj]

theorem State.hostRead_reserved {off : BitVec 12} (h : portAt s.inst.n off = .reserved) :
    s.hostRead off = (0#64, s) := by
  rw [State.hostRead, h]

variable (r : Reg) {j : Nat} (hj : j < s.inst.n)
include hj

/-- A limb that may be relied on reads as itself (R56). -/
theorem State.hostRead_limb (hbusy : s.busy = false) (hw : s.limbWritten r j = true) :
    s.hostRead (BitVec.ofNat 12 (elementOffset r j)) = (s.limb r j, s) := by
  simp [State.hostRead, portAt_elementOffset s.inst r hj, hbusy, hw]

/-- A limb read while a command is pending, or never written, reads as the next free value (R23, R57). -/
theorem State.hostRead_limb_any (h : s.busy = true ∨ s.limbWritten r j = false) :
    s.hostRead (BitVec.ofNat 12 (elementOffset r j)) = (Config.anyWord s.draws, s.countDraw) := by
  obtain h | h := h <;> simp [State.hostRead, portAt_elementOffset s.inst r hj, h]

end HostReads

section HostWrites

variable (s : State) (v : Word)

@[simp] theorem State.hostWrite_status : s.hostWrite 0x008#12 v = s.clearErrors v := rfl

@[simp] theorem State.hostWrite_cmd : s.hostWrite 0x010#12 v = s.cmdWrite v := rfl

/-- A write of an offset that names no writable register is dropped (R60). -/
theorem State.hostWrite_not_writable {off : BitVec 12}
    (h : off.toNat = 0x000 ∨ (0x018 ≤ off.toNat ∧ off.toNat < 0x800) ∨
      (0x800 ≤ off.toNat ∧ 8 * s.inst.n ≤ (off.toNat - 0x800) % 0x80)) :
    s.hostWrite off v = s.raiseError .badWrite := by
  obtain hport | hport | ⟨j, hport⟩ | hport := portAt_not_writable off h <;> rw [State.hostWrite, hport]

/-- A write of a limb with no command pending is performed (R58). -/
theorem State.hostWrite_limb (r : Reg) {j : Nat} (hj : j < s.inst.n) (hbusy : s.busy = false) :
    s.hostWrite (BitVec.ofNat 12 (elementOffset r j)) v = s.writeLimb r j v := by
  simp [State.hostWrite, portAt_elementOffset s.inst r hj, hbusy]

/-- A write of a limb with a command pending is dropped (R62). -/
theorem State.hostWrite_limb_busy (r : Reg) {j : Nat} (hj : j < s.inst.n) (hbusy : s.busy = true) :
    s.hostWrite (BitVec.ofNat 12 (elementOffset r j)) v = s.raiseError .ewriteBusy := by
  simp [State.hostWrite, portAt_elementOffset s.inst r hj, hbusy]

theorem State.clearErrors_of_bit1 (h : v.getLsbD 1 = true) :
    s.clearErrors v = { s with err := false, errovf := false, errcode := 0#8 } :=
  if_pos h

/-- Without bit 1, only ERROVF can change, and bit 2 clears it (R59). -/
theorem State.clearErrors_of_not_bit1 (h : v.getLsbD 1 = false) :
    s.clearErrors v = { s with errovf := s.errovf && !v.getLsbD 2 } := by
  rw [State.clearErrors, h, if_neg Bool.false_ne_true]
  cases v.getLsbD 2 <;> simp

theorem State.cmdWrite_of_error (hbusy : s.busy = false) {e : CmdError} (h : decode v = .error e) :
    s.cmdWrite v = s.raiseError e := by
  simp [State.cmdWrite, hbusy, h]

theorem State.cmdWrite_of_ok (hbusy : s.busy = false) {i : Instr} (h : decode v = .ok i) :
    s.cmdWrite v = s.accept i := by
  simp [State.cmdWrite, hbusy, h]

/-- A latency is at least one cycle (R8). -/
theorem latency_pos (op : Op) (l : LimbCount) : 0 < Config.latency op l := Nat.succ_pos _

end HostWrites

/-- Settles O17: the read at each port, and the port at each offset. -/
theorem readsFollowTheMap : Obligations.ReadsFollowTheMap := by
  unfold Obligations.ReadsFollowTheMap
  refine fun s => ⟨s.hostRead_id, s.hostRead_status, s.hostRead_cmd, s.hostRead_qinv0,
    fun j hj => s.hostRead_modulus hj, fun r j hj => s.hostRead_limb r hj,
    fun r j hj => s.hostRead_limb_any r hj, fun off hlt _ hoff => ?_⟩
  rw [← offset_toNat off hlt] at hoff
  exact s.hostRead_reserved (portAt_reserved _ hoff (limbCount_le_sixteen s.inst))

/-- Settles O18: the write is that of one limb. -/
theorem limbWriteSetsOneLimb : Obligations.LimbWriteSetsOneLimb := by
  unfold Obligations.LimbWriteSetsOneLimb
  intro s r j v hbusy hj
  refine ⟨_, s.hostWrite_limb v r hj hbusy, s.writeLimb_limb_same r j v hj, ?_, fun k hk => ⟨?_, ?_⟩,
    fun q hq => s.writeLimb_sameReg_other hq j v, ⟨rfl, rfl, rfl⟩, ⟨rfl, rfl⟩, rfl, ⟨rfl, rfl⟩, rfl⟩
  · simp [s.writeLimb_limbWritten_same r j v, hj]
  · exact s.writeLimb_limb_otherLimb r j v k hk
  · simp [s.writeLimb_limbWritten_same r j v, hk]

/-- Settles O20: those offsets name no writable register. -/
theorem writesOfConstantsAndReservedOffsetsAreDropped :
    Obligations.WritesOfConstantsAndReservedOffsetsAreDropped := by
  unfold Obligations.WritesOfConstantsAndReservedOffsetsAreDropped
  intro s off v hlt _ hoff
  exact ⟨s.hostWrite_not_writable v (by rwa [offset_toNat off hlt]), rfl,
    (State.hostWrite_effect s _ v).sameConstants⟩

/-- Settles O9: bit 1, and without it bit 2. -/
theorem statusWriteClearsErrors : Obligations.StatusWriteClearsErrors := by
  unfold Obligations.StatusWriteClearsErrors
  intro s v
  rw [s.hostWrite_status v]
  refine ⟨fun h => ?_, fun h => ?_, s.clearErrors_busy v, ⟨s.clearErrors_pend v, s.clearErrors_wait v⟩,
    s.clearErrors_sameRegs v, s.clearErrors_inst v, ⟨s.clearErrors_inputs v, s.clearErrors_reply v⟩,
    s.clearErrors_draws v⟩
  · rw [s.clearErrors_of_bit1 v h]
    exact ⟨rfl, rfl, rfl⟩
  · rw [s.clearErrors_of_not_bit1 v h]
    exact ⟨rfl, rfl, rfl⟩

/-- Settles O19: the dropped write records an error. -/
theorem limbWriteWhileBusyIsDropped : Obligations.LimbWriteWhileBusyIsDropped := by
  unfold Obligations.LimbWriteWhileBusyIsDropped
  intro s r j v hbusy hj
  rw [s.hostWrite_limb_busy v r hj hbusy]
  exact ⟨rfl, s.raiseError_sameRegs _⟩

/-- Settles O28: the two outcomes of the decode. -/
theorem commandWriteAcceptsOrDrops : Obligations.CommandWriteAcceptsOrDrops := by
  unfold Obligations.CommandWriteAcceptsOrDrops
  intro s v hbusy
  rw [s.hostWrite_cmd v]
  refine ⟨fun e he => ?_, fun i hi => ?_⟩
  · rw [s.cmdWrite_of_error v hbusy he]
    exact ⟨rfl, (s.raiseError_busy e).trans hbusy, ⟨s.raiseError_pend e, s.raiseError_wait e⟩,
      s.raiseError_sameRegs e⟩
  · rw [s.cmdWrite_of_ok v hbusy hi]
    exact ⟨rfl, rfl, Nat.sub_add_cancel (latency_pos _ _), SameReg.refl s, ⟨rfl, rfl, rfl⟩, rfl, rfl, rfl⟩

section BusAccesses

variable (s : State) {off : Nat}

theorem definedAccess_aligned (hlt : off < 4096) (h : off % 8 = 0) :
    definedAccess (BitVec.ofNat 12 off) 8 = true := by
  simp [definedAccess, offset_toNat off hlt, h]

theorem definedAccess_undefined (hlt : off < 4096) {len : Nat} (h : len ≠ 8 ∨ off % 8 ≠ 0) :
    definedAccess (BitVec.ofNat 12 off) len = false := by
  rw [definedAccess, offset_toNat off hlt]
  exact decide_eq_false (by omega)

/-- A 64-bit write on the bus, at an aligned offset, is the write of its word (R53). -/
theorem State.busWrite_aligned (hlt : off < 4096) (h : off % 8 = 0) (v : Word) :
    s.busWrite (s.inst.base + off) (busBytes v) = .next (s.hostWrite (BitVec.ofNat 12 off) v) := by
  simp [State.busWrite, windowOffset_base s.inst off hlt, definedAccess_aligned hlt h, wordOfBytes_busBytes]

/-- A 64-bit read on the bus, at an aligned offset, answers the bytes of the word read (R53). -/
theorem State.busRead_aligned (hlt : off < 4096) (h : off % 8 = 0) :
    s.busRead (s.inst.base + off) 8 =
      .next ((s.hostRead (BitVec.ofNat 12 off)).2.answer (busBytes (s.hostRead (BitVec.ofNat 12 off)).1)) := by
  simp [State.busRead, windowOffset_base s.inst off hlt, definedAccess_aligned hlt h]

theorem State.busWrite_undefined (hlt : off < 4096) {bytes : List Byte} (h : bytes.length ≠ 8 ∨ off % 8 ≠ 0) :
    s.busWrite (s.inst.base + off) bytes = .next (s.raiseError .badWrite) := by
  simp [State.busWrite, windowOffset_base s.inst off hlt, definedAccess_undefined hlt h]

theorem State.busRead_undefined (hlt : off < 4096) {len : Nat} (h : len ≠ 8 ∨ off % 8 ≠ 0) :
    s.busRead (s.inst.base + off) len = .next (s.answer (List.replicate len 0#8)) := by
  simp [State.busRead, windowOffset_base s.inst off hlt, definedAccess_undefined hlt h]

/-- No offset belongs to an address outside the window (R50). -/
theorem windowOffset_outside {c : Inst} {addr : Nat} (h : addr < c.base ∨ c.base + 4096 ≤ addr) :
    windowOffset c addr = none :=
  if_neg (by omega)

/-- The step that performs a read. -/
theorem step_read {addr len : Nat} {rest : List HostInput} (hc : s.completing = none)
    (hin : s.inputs = .read addr len :: rest) : step s = (s.cycle rest).busRead addr len := by
  unfold step State.hostCycle
  simp only [hc, hin, State.cycle]

/-- A read takes one input and a cycle of latency, and changes no register and no error field (R55, R65). -/
theorem read_frame {t : State} {rest : List HostInput} {bytes : List Byte}
    (h : t = (s.cycle rest).answer bytes ∨ t = (s.cycle rest).countDraw.answer bytes) :
    SameRegs s t ∧ SameStatus s t ∧ SameConstants s t ∧ t.pend = s.pend ∧ t.wait = s.wait - 1 ∧ t.inputs = rest := by
  obtain rfl | rfl := h <;> exact ⟨SameReg.refl s, ⟨rfl, rfl, rfl⟩, rfl, rfl, rfl, rfl⟩

/-- The step that performs a 64-bit write at an aligned offset (R69). -/
theorem step_write_aligned {rest : List HostInput} {v : Word} (hc : s.completing = none) (hlt : off < 4096)
    (h : off % 8 = 0) (hin : s.inputs = .write (s.inst.base + off) (busBytes v) :: rest) :
    step s = .next ((s.cycle rest).hostWrite (BitVec.ofNat 12 off) v) :=
  (step_write s hc hin).trans ((s.cycle rest).busWrite_aligned hlt h v)

end BusAccesses

/-- Settles O14: the step performs the access, which is that of the word. -/
theorem aStepPerformsAnAlignedWrite : Obligations.AStepPerformsAnAlignedWrite := by
  unfold Obligations.AStepPerformsAnAlignedWrite
  exact fun s rest off v hc hlt h hin => step_write_aligned s hc hlt h hin

/-- Settles O15: the step performs the access, and a read changes the count of draws at most. -/
theorem aStepPerformsAnAlignedRead : Obligations.AStepPerformsAnAlignedRead := by
  unfold Obligations.AStepPerformsAnAlignedRead
  intro s rest off hc hlt h hin
  have hread := (step_read s hc hin).trans ((s.cycle rest).busRead_aligned hlt h)
  obtain ⟨hregs, hstatus, hinst, hpend, -, hinputs⟩ := read_frame s
    (((s.cycle rest).hostRead_state (BitVec.ofNat 12 off)).imp (congrArg (State.answer · _))
      (congrArg (State.answer · _)))
  exact ⟨_, hread, rfl, wordOfBytes_busBytes _, hpend, congrArg Option.isSome hpend, hstatus, hregs, hinst, hinputs⟩

/-- Settles O16: such an access is none that the block defines. -/
theorem undefinedAccessesAreDropped : Obligations.UndefinedAccessesAreDropped := by
  unfold Obligations.UndefinedAccessesAreDropped
  exact ⟨fun s off bytes hlt h => s.busWrite_undefined hlt h, fun s off len hlt h => s.busRead_undefined hlt h⟩

/-- Settles O22: such an address has no offset. -/
theorem addressesOutsideTheWindowStop : Obligations.AddressesOutsideTheWindowStop := by
  unfold Obligations.AddressesOutsideTheWindowStop
  intro s addr len bytes h
  rw [State.busRead, State.busWrite, windowOffset_outside h]
  exact ⟨rfl, rfl⟩

section Scheduling

variable {s : State}

/-- With no command pending none completes (R63). -/
theorem State.completing_of_no_pend (hp : s.pend = none) : s.completing = none := by
  simp [State.completing, hp]

/-- No command completes while a cycle of latency is left (R240). -/
theorem State.completing_of_wait (hw : s.wait ≠ 0) : s.completing = none := by
  simp [State.completing, hw]

/-- The pending command completes in the next step once its latency has passed, without a reset (R63, R230). -/
theorem step_of_due {i : Instr} (hp : s.pend = some i) (hw : s.wait = 0) (hreset : s.inputs.head? ≠ some .reset) :
    step s = exec i s := by
  have hcompleting : s.completing = some i := by simp [State.completing, State.resetAsserted, hp, hw, hreset]
  rw [step, hcompleting]

theorem decode_of_decodeTableWord {nbits w : Nat} {i : Instr} (h : decodeTableWord nbits w = some i) :
    decode (BitVec.ofNat 64 (w % 2 ^ nbits)) = .ok i := by
  unfold decodeTableWord at h
  split at h
  · cases h
    assumption
  · cases h

/-- No reset stands at the front of the inputs behind a placed command. -/
theorem head?_dropWhile_reset_ne (xs : List HostInput) :
    (xs.dropWhile (fun x => x == .reset)).head? ≠ some .reset := by
  intro h
  have hnot := List.head?_dropWhile_not (fun x => x == HostInput.reset) xs
  rw [h] at hnot
  exact absurd hnot (by decide)

/-- A placed command word is a command pending and due (log 9). -/
theorem State.withFetchWord_eq {nbits w : Nat} {i : Instr} (s : State) (h : decodeTableWord nbits w = some i) :
    s.withFetchWord nbits w =
      { s with pend := some i, wait := 0, inputs := s.inputs.dropWhile (fun x => x == .reset) } := by
  rw [State.withFetchWord, State.placeCommand, decode_of_decodeTableWord h]

/-- A run of one step more at its end. -/
theorem run_snoc {k : Nat} {s t u : State} (h : Host.Core.run Sys2Proof.core k s = .next t) (hstep : step t = .next u) :
    Host.Core.run Sys2Proof.core (k + 1) s = .next u :=
  (run_add k 1 s t h).trans (run_succ 0 t u hstep)

end Scheduling

/-- Settles O30: a placed command is pending and due, and the step of a due command is its completion. -/
theorem aStepRunsTheDecodedCommand : Obligations.AStepRunsTheDecodedCommand := by
  unfold Obligations.AStepRunsTheDecodedCommand
  refine ⟨fun s i hp hw hreset => step_of_due hp hw hreset, fun s nbits w i h => ?_⟩
  rw [s.withFetchWord_eq h]
  exact ⟨step_of_due rfl rfl (head?_dropWhile_reset_ne _), rfl, SameReg.refl s, ⟨rfl, rfl, rfl⟩, rfl⟩

section ElementLoad

/-- A register that has the limbs of an N-limb value has the value (R12). -/
theorem State.val_eq_of_limbs {s : State} {r : Reg} {x : Nat} (hx : x < radix s.inst)
    (h : ∀ j < s.inst.n, s.limb r j = BitVec.ofNat 64 (Machine.limb x j)) : s.val r = x := by
  have hlimbs : limbsOf s.inst.n (s.val r) = limbsOf s.inst.n x := by
    refine List.map_congr_left fun j hj => ?_
    rw [← s.limb_toNat r j, h j (List.mem_range.1 hj), BitVec.toNat_ofNat, Nat.mod_eq_of_lt (limb_lt x j)]
  calc s.val r = valOf (limbsOf s.inst.n (s.val r)) := by rw [valOf_limbsOf, Nat.mod_eq_of_lt (s.val_lt r)]
    _ = valOf (limbsOf s.inst.n x) := by rw [hlimbs]
    _ = x := (valOf_limbsOf _ x).trans (Nat.mod_eq_of_lt hx)

/-- The k-th of the writes of `LDE r, x` is that of limb k (R91). -/
theorem drop_inputLDE (c : Inst) (r : Reg) (x : Nat) (rest : List HostInput) {k : Nat} (hk : k < c.n) :
    (inputLDE c r x ++ rest).drop k =
      .write (c.base + elementOffset r k) (busBytes (BitVec.ofNat 64 (limb x k))) ::
        (inputLDE c r x ++ rest).drop (k + 1) := by
  have hlen : k < (inputLDE c r x).length := by simpa [inputLDE] using hk
  rw [List.drop_eq_getElem_cons (by simp only [List.length_append]; omega), List.getElem_append_left hlen]
  simp [inputLDE, inputWR, elementOffset]

/-- After k of the writes of `LDE r, x` from s: the limbs of E[r] below k are those of x, and the rest of the block
is as in s. -/
structure LoadedBelow (s t : State) (r : Reg) (x k : Nat) : Prop where
  limbs : ∀ j < k, t.limb r j = BitVec.ofNat 64 (limb x j) ∧ t.limbWritten r j = true
  others : ∀ q, q ≠ r → SameReg s t q
  status : SameStatus s t
  constants : SameConstants s t
  pend : t.pend = none
  inputs : t.inputs = s.inputs.drop k

variable {s t : State} {r : Reg} {x k : Nat}

theorem LoadedBelow.zero (hp : s.pend = none) : LoadedBelow s s r x 0 where
  limbs := nofun
  others q _ := SameReg.refl s q
  status := ⟨rfl, rfl, rfl⟩
  constants := rfl
  pend := hp
  inputs := rfl

/-- The write of limb k extends the limbs loaded (R58). -/
theorem LoadedBelow.writeLimb (h : LoadedBelow s t r x k) (hk : k < s.inst.n) {w : Nat} :
    LoadedBelow s { t.writeLimb r k (BitVec.ofNat 64 (limb x k)) with wait := w, inputs := s.inputs.drop (k + 1) }
      r x (k + 1) where
  limbs j hj := by
    have hkt : k < t.inst.n := by rwa [show t.inst = s.inst from h.constants]
    change (t.writeLimb r k _).limb r j = _ ∧ (t.writeLimb r k _).limbWritten r j = true
    rw [t.writeLimb_limbWritten_same]
    by_cases hjk : j = k
    · subst hjk
      exact ⟨t.writeLimb_limb_same r j _ hkt, by simp [hkt]⟩
    · obtain ⟨hlimb, hwritten⟩ := h.limbs j (by omega)
      exact ⟨(t.writeLimb_limb_otherLimb r k _ j hjk).trans hlimb, by simp [hwritten]⟩
  others q hq := (h.others q hq).trans (t.writeLimb_sameReg_other hq k _)
  status := h.status
  constants := h.constants
  pend := h.pend
  inputs := rfl

/-- The step that performs the write of limb k. -/
theorem LoadedBelow.step (h : LoadedBelow s t r x k) (hk : k < s.inst.n) {rest : List HostInput}
    (hin : s.inputs = inputLDE s.inst r x ++ rest) :
    ∃ u, step t = .next u ∧ LoadedBelow s u r x (k + 1) := by
  have hinst : t.inst = s.inst := h.constants
  have hkt : k < t.inst.n := by rwa [hinst]
  obtain ⟨hlt, haligned⟩ := elementOffset_lt_and_aligned t.inst r hkt
  have hhead : t.inputs = .write (t.inst.base + elementOffset r k) (busBytes (BitVec.ofNat 64 (limb x k))) ::
      s.inputs.drop (k + 1) := by
    rw [h.inputs, hinst, hin]
    exact drop_inputLDE s.inst r x rest hk
  have hstep := step_write_aligned t (State.completing_of_no_pend h.pend) hlt haligned hhead
  have hbusy : (t.cycle (s.inputs.drop (k + 1))).busy = false := by simp [State.busy, State.cycle, h.pend]
  have hwrite := (t.cycle (s.inputs.drop (k + 1))).hostWrite_limb (BitVec.ofNat 64 (limb x k)) r hkt hbusy
  exact ⟨_, hstep.trans (congrArg Host.Outcome.next hwrite), h.writeLimb hk⟩

/-- k of the writes of `LDE r, x` take k steps (R69). -/
theorem run_inputLDE (hp : s.pend = none) {rest : List HostInput} (hin : s.inputs = inputLDE s.inst r x ++ rest)
    (hk : k ≤ s.inst.n) : ∃ t, Host.Core.run Sys2Proof.core k s = .next t ∧ LoadedBelow s t r x k := by
  induction k with
  | zero => exact ⟨s, rfl, .zero hp⟩
  | succ k ih =>
    obtain ⟨t, hrun, hloaded⟩ := ih (by omega)
    obtain ⟨u, hstep, hnext⟩ := hloaded.step hk hin
    exact ⟨u, run_snoc hrun hstep, hnext⟩

end ElementLoad

/-- Settles O23: after N writes every limb is loaded. -/
theorem nLimbWritesLoadAnElement : Obligations.NLimbWritesLoadAnElement := by
  unfold Obligations.NLimbWritesLoadAnElement
  intro s r x rest hp hx hin
  obtain ⟨t, hrun, hlimbs, hothers, hstatus, hinst, hpend, hinputs⟩ := run_inputLDE hp hin le_rfl
  have ht : t.inst = s.inst := hinst
  refine ⟨t, hrun, ⟨(t.defined_iff r).2 fun j hj => ?_, State.val_eq_of_limbs (by rwa [ht]) fun j hj => ?_⟩,
    hothers, hstatus, hinst, hpend, ?_⟩
  · exact (hlimbs j (by rwa [← ht])).2
  · exact (hlimbs j (by rwa [← ht])).1
  · rw [hinputs, hin, List.drop_left' (by simp [inputLDE])]

section Latency

variable {s t : State} {i : Instr}

/-- A write in the window while a command is pending changes the error fields at most (R61, R62). -/
theorem WriteEffect.frame_of_busy (h : WriteEffect s t) (hbusy : s.busy = true) :
    SamePending s t ∧ SameRegs s t ∧ SameConstants s t ∧ t.inputs = s.inputs := by
  cases h with
  | error e => exact ⟨⟨s.raiseError_pend e, s.raiseError_wait e⟩, s.raiseError_sameRegs e, s.raiseError_inst e,
      s.raiseError_inputs e⟩
  | clear v => exact ⟨⟨s.clearErrors_pend v, s.clearErrors_wait v⟩, s.clearErrors_sameRegs v, s.clearErrors_inst v,
      s.clearErrors_inputs v⟩
  | accept _ _ idle | limb _ _ _ idle => simp [idle] at hbusy

theorem windowOffset_inside {c : Inst} {addr : Nat} (h : c.base ≤ addr ∧ addr < c.base + 4096) :
    ∃ off, windowOffset c addr = some off :=
  ⟨_, if_pos h⟩

theorem State.busRead_inside (s : State) {addr : Nat} (len : Nat)
    (h : s.inst.base ≤ addr ∧ addr < s.inst.base + 4096) : ∃ t, s.busRead addr len = .next t := by
  obtain ⟨off, hoff⟩ := windowOffset_inside h
  rw [State.busRead, hoff]
  dsimp only
  split <;> exact ⟨_, rfl⟩

theorem State.busWrite_inside (s : State) {addr : Nat} (bytes : List Byte)
    (h : s.inst.base ≤ addr ∧ addr < s.inst.base + 4096) : ∃ t, s.busWrite addr bytes = .next t := by
  obtain ⟨off, hoff⟩ := windowOffset_inside h
  rw [State.busWrite, hoff]
  dsimp only
  split <;> exact ⟨_, rfl⟩

theorem State.inputsInWindow.of_drop {k : Nat} (h : s.inputsInWindow) (hinst : SameConstants s t)
    (hin : t.inputs = s.inputs.drop k) : t.inputsInWindow := by
  unfold State.inputsInWindow
  rw [show t.inst = s.inst from hinst, hin]
  exact fun x hx => h x (List.mem_of_mem_drop hx)

theorem State.inputsInWindow.head?_ne_reset (h : s.inputsInWindow) : s.inputs.head? ≠ some .reset :=
  fun hhead => h _ (List.mem_of_mem_head? hhead)

/-- A host cycle whose inputs stay in the window answers a next state (R50). -/
theorem State.inputsInWindow.step_next (h : s.inputsInWindow) (hc : s.completing = none) :
    ∃ t, step s = .next t := by
  rw [step, hc]
  change ∃ t, s.hostCycle = .next t
  unfold State.hostCycle
  cases hin : s.inputs with
  | nil => exact ⟨_, rfl⟩
  | cons y rest =>
    have hy := h y (hin ▸ List.mem_cons_self)
    cases y with
    | idle | reset => exact ⟨_, rfl⟩
    | read addr len => exact State.busRead_inside _ len hy
    | write addr bytes => exact State.busWrite_inside _ bytes hy

/-- A host cycle while a command is pending, and its latency lasts, lets a cycle pass and changes no register (R62). -/
theorem step_waits (h : s.inputsInWindow) (hp : s.pend = some i) (hw : s.wait ≠ 0) (hstep : step s = .next t) :
    t.pend = some i ∧ t.wait = s.wait - 1 ∧ SameRegs s t ∧ SameConstants s t ∧ t.inputs = s.inputs.drop 1 := by
  cases step_effect s t hstep with
  | complete _ _ hc => simp [State.completing_of_wait hw] at hc
  | quiet _ hin => exact ⟨hp, rfl, SameReg.refl s, rfl, by simp [hin]⟩
  | idle rest _ hin => exact ⟨hp, rfl, SameReg.refl s, rfl, by simp [hin, State.cycle]⟩
  | reset rest hin => exact absurd (by rw [hin]; rfl) h.head?_ne_reset
  | read rest _ _ _ bytes _ hin he =>
    obtain ⟨hregs, -, hinst, hpend, hwait, hinputs⟩ := read_frame s he
    exact ⟨hpend.trans hp, hwait, hregs, hinst, by simp [hinputs, hin]⟩
  | write rest _ _ _ _ hin he =>
    obtain ⟨⟨hpend, hwait⟩, hregs, hinst, hinputs⟩ := he.frame_of_busy (by simp [State.busy, State.cycle, hp])
    exact ⟨hpend.trans hp, hwait, hregs, hinst, by simp [hinputs, hin, State.cycle]⟩

/-- The latency left passes, whatever the host accesses in the window meanwhile (R240). -/
theorem run_wait (h : s.inputsInWindow) (hp : s.pend = some i) :
    ∃ t, Host.Core.run Sys2Proof.core s.wait s = .next t ∧ t.pend = some i ∧ t.wait = 0 ∧ SameRegs s t ∧
      SameConstants s t ∧ t.inputs = s.inputs.drop s.wait := by
  induction hw : s.wait generalizing s with
  | zero => exact ⟨s, rfl, hp, hw, SameReg.refl s, rfl, rfl⟩
  | succ w ih =>
    have hne : s.wait ≠ 0 := by omega
    obtain ⟨t, hstep⟩ := h.step_next (State.completing_of_wait hne)
    obtain ⟨htp, htw, hregs, hinst, hin⟩ := step_waits h hp hne hstep
    obtain ⟨u, hrun, hup, huw, huregs, huinst, huin⟩ := ih (h.of_drop hinst hin) htp (by omega)
    refine ⟨u, (run_succ w s t hstep).trans hrun, hup, huw, fun r => (hregs r).trans (huregs r),
      huinst.trans hinst, ?_⟩
    rw [huin, hin, List.drop_drop, Nat.add_comm]

end Latency

/-- Settles O31: the latency passes, and the command is then due. -/
theorem aPendingCommandCompletesAfterItsLatency : Obligations.APendingCommandCompletesAfterItsLatency := by
  unfold Obligations.APendingCommandCompletesAfterItsLatency
  intro s i hp h
  obtain ⟨t, hrun, htp, htw, hregs, hinst, hin⟩ := run_wait h hp
  exact ⟨t, hrun, htp, htw, hregs, hinst, hin, step_of_due htp htw (h.of_drop hinst hin).head?_ne_reset⟩

section CompletedCommand

variable {s t : State} {i : Instr}

/-- The completion of a legal command answers a next state, whatever the registers hold (R64). -/
theorem exec_next_of_wf (s : State) (h : i.wf = true) : ∃ t, exec i s = .next t := by
  have hdata := exec_withoutData s i
  rw [if_pos h] at hdata
  obtain ⟨t, ht, -⟩ := outcomeWithoutData_eq_next hdata
  exact ⟨t, ht⟩

theorem State.writeResults_reply (s : State) (results : List (Reg × Option Nat)) :
    (s.writeResults results).reply = s.reply := by
  induction results generalizing s with
  | nil => rfl
  | cons x rest ih => exact (ih _).trans (s.writeResult_reply x.1 x.2)

/-- A write of results leaves no limb undefined that was defined (R23). -/
theorem State.writeResults_defined_of_defined (s : State) (results : List (Reg × Option Nat)) {q : Reg}
    (h : s.defined q = true) : (s.writeResults results).defined q = true := by
  induction results generalizing s with
  | nil => exact h
  | cons x rest ih =>
    refine ih (s.writeResult x.1 x.2) ?_
    by_cases hq : q = x.1
    · rw [hq, s.writeResult_defined_same]
    · rw [s.writeResult_defined_other x.2 hq, h]

/-- Every register that receives a result is written whole (R63). -/
theorem State.writeResults_defined (s : State) (results : List (Reg × Option Nat)) {q : Reg}
    (h : q ∈ results.map Prod.fst) : (s.writeResults results).defined q = true := by
  induction results generalizing s with
  | nil => cases h
  | cons x rest ih =>
    obtain rfl | hrest := List.mem_cons.1 h
    · exact State.writeResults_defined_of_defined _ rest (s.writeResult_defined_same x.1 x.2)
    · exact ih _ hrest

theorem exec_next_sameHost (h : exec i s = .next t) : SameHost s t := by
  refine ⟨(congrArg State.inputs (exec_next_withoutData h).2 :), ?_⟩
  obtain ⟨results, -, rfl⟩ := exec_next_writeResults h
  exact s.writeResults_reply results

theorem exec_next_busy (h : exec i s = .next t) : t.busy = false := by
  simp [State.busy, exec_next_pend h]

/-- What a completion leaves (R63, R202). -/
theorem exec_next_completes (h : exec i s = .next t) : Completes s t (destsOf i) :=
  ⟨exec_next_sameConstants h, exec_next_sameStatus h, exec_next_sameHost h, exec_next_pend h, exec_next_busy h,
    exec_next_wait h, fun _ hq => exec_next_sameReg_other h hq⟩

theorem exec_next_defined (h : exec i s = .next t) {r : Reg} (hr : r ∈ destsOf i) : t.defined r = true := by
  obtain ⟨results, hdests, rfl⟩ := exec_next_writeResults h
  exact s.writeResults_defined results (hdests ▸ hr)

end CompletedCommand

/-- Settles O33: a legal command completes, and a completion writes its destinations whole. -/
theorem completionNeverFails : Obligations.CompletionNeverFails := by
  unfold Obligations.CompletionNeverFails
  intro s i h
  obtain ⟨t, ht⟩ := exec_next_of_wf s h
  exact ⟨t, ht, exec_next_completes ht, fun r hr => exec_next_defined ht hr⟩

/-- Settles O34: after a completion BUSY is 0 and the destination's limbs are written. -/
theorem resultsAreReadableAfterCompletion : Obligations.ResultsAreReadableAfterCompletion := by
  unfold Obligations.ResultsAreReadableAfterCompletion
  intro s t i r j _ h hr hj
  have hinst : t.inst = s.inst := exec_next_sameConstants h
  have hjt : j < t.inst.n := by rwa [hinst]
  have hlimb : t.limb r j = BitVec.ofNat 64 (limb (t.val r) j) := by
    rw [← t.limb_toNat r j, BitVec.ofNat_toNat, BitVec.setWidth_eq]
  refine ⟨?_, ?_⟩
  · rw [t.hostRead_status, t.statusWord_bit0, exec_next_busy h]
  · rw [t.hostRead_limb r hjt (exec_next_busy h) ((t.defined_iff r).1 (exec_next_defined h hr) j hjt), hlimb]

section CommandWords

/-- The fields of an encoded command, and its reserved bits (R81). -/
theorem fields_encode (i : Instr) :
    opField (encode i) = i.op.code ∧ rdField (encode i) = i.rd ∧ raField (encode i) = i.ra ∧
      rbField (encode i) = i.rb ∧ (encode i).extractLsb' 16 48 = 0#48 := by
  have hword := encode_toNat i
  have hop := i.op.code.isLt
  have hrd := i.rd.isLt
  have hra := i.ra.isLt
  have hrb := i.rb.isLt
  refine ⟨BitVec.eq_of_toNat_eq ?_, Fin.ext ?_, Fin.ext ?_, Fin.ext ?_, (upperBits_eq_zero_iff _).2 (by omega)⟩
  · rw [opField_toNat]
    omega
  · rw [rdField_val]
    omega
  · rw [raField_val]
    omega
  · rw [rbField_val]
    omega

/-- The decoder reads back every legal command (R81, R84). -/
theorem decode_encode {i : Instr} (h : i.wf = true) : decode (encode i) = .ok i := by
  obtain ⟨hop, hrd, hra, hrb, hupper⟩ := fields_encode i
  rw [decode, hop, opOfCode_code, hupper, hrd, hra, hrb]
  cases i with
  | fmul | fred | ffrom | fmul3 | fmul5 | fmul13 => simp [Instr.op, Op.format, Op.build, Instr.rd, Instr.ra, Instr.rb]
  | fbfly rd ra =>
    have hne : rd ≠ ra := of_decide_eq_true h
    simp [Instr.op, Op.format, Op.build, Instr.rd, Instr.ra, Instr.rb, hne]

end CommandWords

section Reaching

/-- t is reached from s by some number of steps. -/
def Reaches (s t : State) : Prop := ∃ k, Host.Core.run Sys2Proof.core k s = .next t

variable {s t u : State}

theorem Reaches.refl (s : State) : Reaches s s := ⟨0, rfl⟩

theorem Reaches.head (h : step s = .next t) (hr : Reaches t u) : Reaches s u := by
  obtain ⟨k, hk⟩ := hr
  exact ⟨k + 1, (run_succ k s t h).trans hk⟩

theorem Reaches.trans (hst : Reaches s t) (htu : Reaches t u) : Reaches s u := by
  obtain ⟨j, hj⟩ := hst
  obtain ⟨k, hk⟩ := htu
  exact ⟨j + k, (run_add j k s t hj).trans hk⟩

end Reaching

section PolledCommand

/-- The registers, the error fields and the count of draws of u, with a pending command, its latency, inputs and a
reply. -/
def State.hosted (u : State) (p : Option Instr) (w : Nat) (xs : List HostInput) (bs : List Byte) : State :=
  { u with pend := p, wait := w, inputs := xs, reply := bs }

theorem State.eq_hosted {s : State} (hp : s.pend = none) : s = s.hosted none s.wait s.inputs s.reply := by
  rw [← hp]
  rfl

section HostSide

variable (u : State) (p : Option Instr) (w : Nat) (xs : List HostInput) (bs : List Byte)

theorem State.writeResult_hosted (r : Reg) (res : Option Nat) :
    (u.hosted p w xs bs).writeResult r res = (u.writeResult r res).hosted p w xs bs := by
  cases res <;> rfl

/-- A completion does not depend on the host's side, and keeps it (R63). -/
theorem exec_hosted {u t : State} {i : Instr} (h : exec i u = .next t) :
    exec i (u.hosted p w xs bs) = .next (t.hosted none 0 xs bs) := by
  cases i with
  | fmul | fred | ffrom | fmul3 | fmul5 | fmul13 =>
    cases h
    exact congrArg (fun v => Host.Outcome.next v.retire) (u.writeResult_hosted p w xs bs _ _)
  | fbfly rd ra =>
    change execFbfly rd ra u = .next t at h
    change execFbfly rd ra _ = _
    unfold execFbfly at h ⊢
    split at h
    · cases h
    · rename_i hne
      cases h
      rw [if_neg hne]
      dsimp only
      rw [State.writeResult_hosted, State.writeResult_hosted]
      rfl

end HostSide

/-- The last of some polls, apart from those before it. -/
theorem inputPOLL_add_append (c : Inst) (l m : Nat) (xs : List HostInput) :
    inputPOLL c (l + (m + 1)) ++ xs = inputPOLL c l ++ (inputPOLL c m ++ inputRD c 0x008 :: xs) := by
  simp [inputPOLL, List.replicate_add]

theorem head?_polls_ne_reset (c : Inst) (m : Nat) (xs : List HostInput) :
    (inputPOLL c m ++ inputRD c 0x008 :: xs).head? ≠ some .reset := by
  cases m <;> simp [inputPOLL, inputRD, List.replicate_succ]

variable {c : Inst} {u t : State} (hc : u.inst = c) (p : Option Instr) (w : Nat) (xs : List HostInput) (bs : List Byte)
include hc

/-- A legal command written to CMD is accepted (R61). -/
theorem step_command {i : Instr} (h : i.wf = true) :
    step (u.hosted none w (inputCMD c i :: xs) bs) =
      .next (u.hosted (some i) (Config.latency i.op c.limbs - 1) xs bs) := by
  subst hc
  have hstep := step_write_aligned (u.hosted none w (inputCMD u.inst i :: xs) bs) (off := 0x010) (v := encode i)
    (State.completing_of_no_pend rfl) (by decide) (by decide) rfl
  rw [hstep]
  exact congrArg Host.Outcome.next (State.cmdWrite_of_ok _ _ rfl (decode_encode h))

/-- A poll answers STATUS, and a cycle passes (R55). -/
theorem step_poll (h : (u.hosted p w (inputRD c 0x008 :: xs) bs).completing = none) :
    step (u.hosted p w (inputRD c 0x008 :: xs) bs) =
      .next (u.hosted p (w - 1) xs (busBytes (u.hosted p w xs bs).statusWord)) := by
  subst hc
  exact step_status_read _ xs h rfl

/-- Polls in which no command completes let their cycles pass. -/
theorem reaches_polls {k : Nat} (h : p = none ∨ k ≤ w) :
    ∃ bs', Reaches (u.hosted p w (inputPOLL c k ++ xs) bs) (u.hosted p (w - k) xs bs') := by
  induction k generalizing w bs with
  | zero => exact ⟨bs, Reaches.refl _⟩
  | succ k ih =>
    have hnone : (u.hosted p w (inputPOLL c (k + 1) ++ xs) bs).completing = none := by
      obtain hp | hk := h
      · exact State.completing_of_no_pend hp
      · exact State.completing_of_wait (show w ≠ 0 by omega)
    obtain ⟨bs', hreach⟩ := ih (w - 1) _ (h.imp_right (by omega))
    refine ⟨bs', .head (step_poll hc p w _ bs hnone) ?_⟩
    rwa [Nat.sub_sub, Nat.add_comm 1 k] at hreach

/-- A pending command completes when the polls of its latency have passed, and the polls after that, but for the last,
let cycles pass (R63). -/
theorem reaches_last_poll_of_pending {i : Instr} (h : exec i u = .next t) (l m : Nat) :
    ∃ bs', Reaches (u.hosted (some i) l (inputPOLL c l ++ (inputPOLL c m ++ inputRD c 0x008 :: xs)) bs)
      (t.hosted none 0 (inputRD c 0x008 :: xs) bs') := by
  obtain ⟨bs₁, hwait⟩ := reaches_polls hc (some i) l (inputPOLL c m ++ inputRD c 0x008 :: xs) bs (.inr (le_refl l))
  rw [Nat.sub_self] at hwait
  have hcomplete : step (u.hosted (some i) 0 (inputPOLL c m ++ inputRD c 0x008 :: xs) bs₁) =
      .next (t.hosted none 0 (inputPOLL c m ++ inputRD c 0x008 :: xs) bs₁) :=
    (step_of_due rfl rfl (head?_polls_ne_reset c m xs)).trans (exec_hosted _ _ _ _ h)
  obtain ⟨bs₂, hpolls⟩ := reaches_polls ((exec_next_sameConstants h).trans hc) none 0 (inputRD c 0x008 :: xs) bs₁
    (k := m) (.inl rfl)
  rw [Nat.zero_sub] at hpolls
  exact ⟨bs₂, hwait.trans (.head hcomplete hpolls)⟩

/-- A legal command written to CMD and polled at least LAT times completes before the last of the polls (R63, R240). -/
theorem reaches_last_poll_of_command {i : Instr} (hwf : i.wf = true) (h : exec i u = .next t) {k : Nat}
    (hk : Config.latency i.op c.limbs ≤ k) :
    ∃ bs', Reaches (u.hosted none w (inputCMD c i :: inputPOLL c k ++ xs) bs)
      (t.hosted none 0 (inputRD c 0x008 :: xs) bs') := by
  have hpos := latency_pos i.op c.limbs
  obtain ⟨m, rfl⟩ : ∃ m, k = Config.latency i.op c.limbs - 1 + (m + 1) :=
    ⟨k - Config.latency i.op c.limbs, by omega⟩
  rw [List.cons_append, inputPOLL_add_append]
  obtain ⟨bs', hreach⟩ := reaches_last_poll_of_pending hc xs bs h (Config.latency i.op c.limbs - 1) m
  exact ⟨bs', .head (step_command hc w _ bs hwf) hreach⟩

end PolledCommand

section PolledProgram

/-- The inputs of a host program: each command written to CMD, and polled a number of times (R91). -/
def polledProgram (c : Inst) (prog : List (Instr × Nat)) : List HostInput :=
  prog.flatMap fun x => inputCMD c x.1 :: inputPOLL c x.2

theorem SameStatus.trans {s t u : State} (hst : SameStatus s t) (htu : SameStatus t u) : SameStatus s u := by
  obtain ⟨he, ho, hc⟩ := hst
  obtain ⟨he', ho', hc'⟩ := htu
  exact ⟨he'.trans he, ho'.trans ho, hc'.trans hc⟩

theorem execAll_cons {i : Instr} {is : List Instr} {s t : State} (h : exec i s = .next t) :
    execAll (i :: is) s = execAll is t := by
  rw [execAll, h]

/-- A polled program of legal commands runs to its last poll, and the block is then as the commands' meanings, composed
in order, leave it (R70). -/
theorem reaches_last_poll {c : Inst} {prog : List (Instr × Nat)} (hne : prog ≠ []) {u : State} (hc : u.inst = c)
    (hprog : ∀ x ∈ prog, x.1.wf = true ∧ Config.latency x.1.op c.limbs ≤ x.2) (w : Nat) (bs : List Byte) :
    ∃ v bs', execAll (prog.map Prod.fst) u = .next v ∧ SameStatus u v ∧ SameConstants u v ∧
      Reaches (u.hosted none w (polledProgram c prog) bs) (v.hosted none 0 [inputRD c 0x008] bs') := by
  induction prog generalizing u w bs with
  | nil => exact absurd rfl hne
  | cons x rest ih =>
    obtain ⟨⟨hwf, hk⟩, hrest⟩ := List.forall_mem_cons.1 hprog
    obtain ⟨t, ht⟩ := exec_next_of_wf u hwf
    have htc : t.inst = c := (exec_next_sameConstants ht).trans hc
    obtain ⟨bs₁, hcommand⟩ := reaches_last_poll_of_command hc w (polledProgram c rest) bs hwf ht hk
    rw [List.map_cons, execAll_cons ht]
    by_cases hnil : rest = []
    · subst hnil
      exact ⟨t, bs₁, rfl, exec_next_sameStatus ht, exec_next_sameConstants ht, hcommand⟩
    · have hpoll := step_poll htc none 0 (polledProgram c rest) bs₁ (State.completing_of_no_pend rfl)
      obtain ⟨v, bs₂, hv, hstatus, hinst, hreach⟩ := ih hnil htc hrest _ _
      exact ⟨v, bs₂, hv, (exec_next_sameStatus ht).trans hstatus, hinst.trans (htc.trans hc.symm),
        hcommand.trans (.head hpoll hreach)⟩

/-- A run that comes to a last poll, with no command pending and no error recorded, succeeds (R243). -/
theorem runSucceeded_of_last_poll {c : Inst} {s v : State} {bs : List Byte} (hc : v.inst = c) (herr : v.err = false)
    (h : Reaches s (v.hosted none 0 [inputRD c 0x008] bs)) : ∃ bs', s.runSucceeded (v.hosted none 0 [] bs') := by
  subst hc
  obtain ⟨k, hrun⟩ := h
  have hidle : (v.hosted none 0 [inputRD v.inst 0x008] bs).completing = none := State.completing_of_no_pend rfl
  have hperforming : (v.hosted none 0 [inputRD v.inst 0x008] bs).performing = some (inputRD v.inst 0x008) := by
    rw [State.performing, hidle]
    rfl
  have hpoll := step_poll rfl none 0 [] bs hidle
  refine ⟨_, ⟨k, _, _, hrun, ⟨hperforming, hpoll, ?_⟩, nofun, 0, _, rfl, ?_, hpoll, nofun⟩, herr⟩
  · change (wordOfBytes (busBytes (v.hosted none 0 [] bs).statusWord)).getLsbD 0 = false
    rw [wordOfBytes_busBytes, State.statusWord_bit0]
    rfl
  · rw [hperforming]
    rfl

end PolledProgram

/-- Settles O59: the run comes to its last poll, which reads the result. -/
theorem commandSequencesComposeInOrder : Obligations.CommandSequencesComposeInOrder := by
  unfold Obligations.CommandSequencesComposeInOrder
  intro s prog hne hp herr hprog hin
  obtain ⟨u, bs, hexec, hstatus, hinst, hreach⟩ := reaches_last_poll hne rfl hprog s.wait s.reply
  have hs : s.hosted none s.wait (polledProgram s.inst prog) s.reply = s := by
    rw [polledProgram, ← hin]
    exact (State.eq_hosted hp).symm
  rw [hs] at hreach
  have herru : u.err = false := hstatus.1.trans herr
  obtain ⟨bs', hsucceeded⟩ := runSucceeded_of_last_poll hinst herru hreach
  exact ⟨_, u, hexec, hsucceeded, rfl, SameReg.refl u, hstatus, hinst⟩

end Sys2Proof.Machine

/-! Encoding (30_encoding.md): what a word that decodes to a command is, the error of each check that a CMD value can
fail, the words of the spec's vectors, and the butterfly of one register. -/

namespace Sys2Proof.Machine

section BuiltCommands

/-! The fields of a command that is built from the fields of a word (R82): a field that the format does not use is 0 in
the command. -/

variable {op : Op} {rd ra rb : Reg}

@[simp] theorem op_build : (op.build rd ra rb).op = op := by cases op <;> rfl

@[simp] theorem rd_build : (op.build rd ra rb).rd = rd := by cases op <;> rfl

theorem ra_build (h : op.format = .r1 → ra = 0) : (op.build rd ra rb).ra = ra := by
  cases op with
  | fmul | fbfly => rfl
  | fred | ffrom | fmul3 | fmul5 | fmul13 => exact (h rfl).symm

theorem rb_build (h : op.format ≠ .r3 → rb = 0) : (op.build rd ra rb).rb = rb := by
  cases op with
  | fmul => rfl
  | fred | ffrom | fmul3 | fmul5 | fmul13 | fbfly => exact (h (by decide)).symm

end BuiltCommands

section LegalWords

variable {v : Word}

/-- A word that decodes to a command passes every check of R85, and the command is built from its fields. -/
theorem decode_eq_ok_inv {i : Instr} (h : decode v = .ok i) :
    ∃ op, opOfCode (opField v) = some op ∧ v.extractLsb' 16 48 = 0#48 ∧ (op.format = .r1 → raField v = 0) ∧
      (op.format ≠ .r3 → rbField v = 0) ∧ (op.format = .r2 → rdField v ≠ raField v) ∧
      i = op.build (rdField v) (raField v) (rbField v) := by
  unfold decode at h
  split at h
  · cases h
  · rename_i op hop
    split at h
    · cases h
    rename_i hupper
    split at h
    · cases h
    rename_i hr1
    split at h
    · cases h
    rename_i hr2
    split at h
    · cases h
    rename_i hdistinct
    cases h
    refine ⟨op, hop, not_not.1 hupper, fun hf => ?_, fun hf => ?_, fun hf heq => hdistinct ⟨hf, heq⟩, rfl⟩
    · by_contra hra
      exact hr1 ⟨hf, .inl hra⟩
    · by_contra hrb
      cases hform : op.format with
      | r1 => exact hr1 ⟨hform, .inr hrb⟩
      | r2 => exact hr2 ⟨hform, hrb⟩
      | r3 => exact hf hform

/-- A word below 2^16 is the sum of its fields (R81). -/
theorem toNat_eq_sum_of_fields (h : v.toNat < 65536) :
    v.toNat = (rbField v).val * 4096 + (raField v).val * 256 + (rdField v).val * 16 + (opField v).toNat := by
  rw [rbField_val, raField_val, rdField_val, opField_toNat]
  omega

/-- A word that decodes is the encoding of the command: none of its bits is ignored (R80, R81, R87). -/
theorem encode_of_decode {i : Instr} (h : decode v = .ok i) : encode i = v := by
  obtain ⟨op, hop, hupper, hra, hrb, -, rfl⟩ := decode_eq_ok_inv h
  apply BitVec.eq_of_toNat_eq
  rw [encode_toNat, op_build, rd_build, ra_build hra, rb_build hrb, code_of_opOfCode _ _ hop]
  exact (toNat_eq_sum_of_fields ((upperBits_eq_zero_iff v).1 hupper)).symm

end LegalWords

section IllegalWords

variable {v : Word} {op : Op}

/-- The first check after CMD_BUSY (R86): OP. -/
theorem decode_of_illegal_op (h : opOfCode (opField v) = none) : decode v = .error .illegalOp := by
  rw [decode, h]

/-- The second check (R86): a reserved bit, or a field that the format does not use. -/
theorem decode_of_reserved_field (hop : opOfCode (opField v) = some op)
    (h : v.extractLsb' 16 48 ≠ 0#48 ∨ (op.format = .r1 ∧ (raField v ≠ 0 ∨ rbField v ≠ 0)) ∨
      (op.format = .r2 ∧ rbField v ≠ 0)) : decode v = .error .rsvdField := by
  rw [decode, hop]
  dsimp only
  obtain h | h | h := h
  · rw [if_pos h]
  · rw [if_pos h, ite_self]
  · rw [if_pos h, ite_self, ite_self]

/-- The last check (R86): a butterfly of one register. -/
theorem decode_of_r2_same_registers (hop : opOfCode (opField v) = some op) (hupper : v.extractLsb' 16 48 = 0#48)
    (hformat : op.format = .r2) (hrb : rbField v = 0) (h : rdField v = raField v) :
    decode v = .error .aliasPair := by
  rw [decode, hop]
  simp [hupper, hformat, hrb, h]

/-- The opcodes of each format (R84). -/
theorem format_eq_r1_iff (op : Op) : op.format = .r1 ↔ 2 ≤ op.code.toNat ∧ op.code.toNat ≤ 6 := by
  cases op <;> decide

theorem format_eq_r2_iff (op : Op) : op.format = .r2 ↔ op.code.toNat = 7 := by
  cases op <;> decide

/-- OP values 1 to 7 select an operation, whose opcode is that value (R84). -/
theorem exists_op_of_legal_code (h1 : 1 ≤ v.toNat % 16) (h7 : v.toNat % 16 ≤ 7) :
    ∃ op, opOfCode (opField v) = some op ∧ op.code.toNat = v.toNat % 16 := by
  have hsome : opOfCode (opField v) ≠ none := by
    rw [Ne, opOfCode_eq_none_iff, opField_toNat]
    omega
  obtain ⟨op, hop⟩ := Option.ne_none_iff_exists'.1 hsome
  exact ⟨op, hop, by rw [code_of_opOfCode _ _ hop, opField_toNat]⟩

theorem raField_eq_zero_iff : raField v = 0 ↔ v.toNat / 256 % 16 = 0 := by
  rw [Fin.ext_iff, raField_val, Fin.val_zero]

theorem rbField_eq_zero_iff : rbField v = 0 ↔ v.toNat / 4096 % 16 = 0 := by
  rw [Fin.ext_iff, rbField_val, Fin.val_zero]

theorem decode_of_op_out_of_range (h : v.toNat % 16 = 0 ∨ 8 ≤ v.toNat % 16) : decode v = .error .illegalOp :=
  decode_of_illegal_op ((opOfCode_eq_none_iff _).2 (by rwa [opField_toNat]))

/-- A legal OP with bits 63:16 not zero (R85). -/
theorem decode_of_upper_bits (h1 : 1 ≤ v.toNat % 16) (h7 : v.toNat % 16 ≤ 7) (h : 2 ^ 16 ≤ v.toNat) :
    decode v = .error .rsvdField := by
  obtain ⟨op, hop, -⟩ := exists_op_of_legal_code h1 h7
  exact decode_of_reserved_field hop (.inl fun hupper => absurd ((upperBits_eq_zero_iff v).1 hupper) (by omega))

/-- Format R1 with bits 15:8 not zero (R85). -/
theorem decode_of_unused_r1_fields (h2 : 2 ≤ v.toNat % 16) (h6 : v.toNat % 16 ≤ 6) (hlt : v.toNat < 2 ^ 16)
    (h : 2 ^ 8 ≤ v.toNat) : decode v = .error .rsvdField := by
  obtain ⟨op, hop, hcode⟩ := exists_op_of_legal_code (v := v) (by omega) (by omega)
  have hformat : op.format = .r1 := (format_eq_r1_iff op).2 (by omega)
  refine decode_of_reserved_field hop (.inr (.inl ⟨hformat, ?_⟩))
  rw [Ne, Ne, raField_eq_zero_iff, rbField_eq_zero_iff]
  omega

/-- Format R2 with bits 15:12 not zero (R85). -/
theorem decode_of_unused_r2_field (h7 : v.toNat % 16 = 7) (hlt : v.toNat < 2 ^ 16) (h : 2 ^ 12 ≤ v.toNat) :
    decode v = .error .rsvdField := by
  obtain ⟨op, hop, hcode⟩ := exists_op_of_legal_code (v := v) (by omega) (by omega)
  have hformat : op.format = .r2 := (format_eq_r2_iff op).2 (by omega)
  refine decode_of_reserved_field hop (.inr (.inr ⟨hformat, ?_⟩))
  rw [Ne, rbField_eq_zero_iff]
  omega

/-- A butterfly of one register, with its other fields legal (R85). -/
theorem decode_of_equal_registers (h7 : v.toNat % 16 = 7) (hlt : v.toNat < 2 ^ 12)
    (h : v.toNat / 16 % 16 = v.toNat / 256) : decode v = .error .aliasPair := by
  obtain ⟨op, hop, hcode⟩ := exists_op_of_legal_code (v := v) (by omega) (by omega)
  have hsame : rdField v = raField v := by
    rw [Fin.ext_iff, rdField_val, raField_val]
    omega
  have hrb : v.toNat / 4096 = 0 := Nat.div_eq_of_lt hlt
  exact decode_of_r2_same_registers hop ((upperBits_eq_zero_iff v).2 (by omega)) ((format_eq_r2_iff op).2 (by omega))
    (rbField_eq_zero_iff.2 (by rw [hrb])) hsame

end IllegalWords

/-- With a command pending a CMD write is dropped before its value is looked at (R86). -/
theorem State.cmdWrite_of_busy (s : State) (v : Word) (hbusy : s.busy = true) :
    s.cmdWrite v = s.raiseError .cmdBusy :=
  if_pos hbusy

/-- A butterfly of one register is refused (log 8). -/
theorem execFbfly_self (d : Reg) (s : State) : execFbfly d d s = .refused .aliasedButterfly :=
  if_pos rfl

/-- Settles O24: the fields of an encoded command are the command's. -/
theorem decodingAnEncodedCommandGivesItBack : Obligations.DecodingAnEncodedCommandGivesItBack := by
  unfold Obligations.DecodingAnEncodedCommandGivesItBack
  exact fun i h => decode_encode h

/-- Settles O25: a word that decodes passes every check, so it is the sum of the fields its format uses. -/
theorem onlyEncodedCommandsDecode : Obligations.OnlyEncodedCommandsDecode := by
  unfold Obligations.OnlyEncodedCommandsDecode
  exact fun v i h => ⟨wf_of_decode h, encode_of_decode h⟩

/-- Settles O27: CMD_BUSY first, and then the error of the decode. -/
theorem illegalCommandsRaiseTheirErrorInOrder : Obligations.IllegalCommandsRaiseTheirErrorInOrder := by
  unfold Obligations.IllegalCommandsRaiseTheirErrorInOrder
  exact fun s v => ⟨s.cmdWrite_of_busy v,
    fun hidle hop => s.cmdWrite_of_error v hidle (decode_of_op_out_of_range hop),
    fun hidle h1 h7 hge => s.cmdWrite_of_error v hidle (decode_of_upper_bits h1 h7 hge),
    fun hidle h2 h6 hlt hge => s.cmdWrite_of_error v hidle (decode_of_unused_r1_fields h2 h6 hlt hge),
    fun hidle h7 hlt hge => s.cmdWrite_of_error v hidle (decode_of_unused_r2_field h7 hlt hge),
    fun hidle h7 hlt hsame => s.cmdWrite_of_error v hidle (decode_of_equal_registers h7 hlt hsame)⟩

/-- Settles O26: the decoder, run on each word. -/
theorem sampleWordsDecode : Obligations.SampleWordsDecode := by
  unfold Obligations.SampleWordsDecode
  exact ⟨rfl, rfl, rfl, rfl, rfl, rfl, rfl, rfl⟩

/-- Settles O55: the butterfly compares its two registers first. -/
theorem butterflyOfOneRegisterStops : Obligations.ButterflyOfOneRegisterStops := by
  unfold Obligations.ButterflyOfOneRegisterStops
  exact fun s d => execFbfly_self d s

end Sys2Proof.Machine

/-! Reduce (40_reduce.md): SubBorrow, AddCarry and Select as integer operations (R101 to R103), Reduce and where it is
idempotent (R104, R107), `fred`, and the free values of a command whose sources are out of domain (R105, R106). -/

namespace Sys2Proof.Machine

section LimbLoops

variable (n a b : Nat)

/-- One digit of weight 2^(64n) above n limbs gives a value of n + 1 limbs. -/
theorem add_digit_lt_pow_succ {r d : Nat} (hr : r < 2 ^ (64 * n)) (hd : d < 2 ^ 64) :
    r + d * 2 ^ (64 * n) < 2 ^ (64 * (n + 1)) := by
  rw [pow_limb_succ]
  calc r + d * 2 ^ (64 * n) < (d + 1) * 2 ^ (64 * n) := by linarith
    _ ≤ 2 ^ 64 * 2 ^ (64 * n) := Nat.mul_le_mul_right _ hd

/-- One limb of SubBorrow: the borrow out is worth 2^64 (R101). -/
theorem subBorrow_digit {x y k : Nat} (hx : x < 2 ^ 64) (hy : y < 2 ^ 64) (hk : k ≤ 1) :
    (((x : Int) - y - k) % 2 ^ 64).toNat + y + k = x + (decide ((x : Int) - y - k < 0)).toNat * 2 ^ 64 := by
  by_cases h : (x : Int) - y - k < 0
  · simp only [h, decide_true, Bool.toNat_true]
    omega
  · simp only [h, decide_false, Bool.toNat_false]
    omega

/-- One limb of AddCarry: bit 64 of the sum is its quotient by 2^64 (R102). -/
theorem addCarry_digit {x y k : Nat} (hx : x < 2 ^ 64) (hy : y < 2 ^ 64) (hk : k ≤ 1) :
    (x + y + k) % 2 ^ 64 + ((x + y + k).testBit 64).toNat * 2 ^ 64 = x + y + k := by
  rw [Nat.toNat_testBit]
  omega

/-- SubBorrow of the low n limbs: the difference has n limbs and owes the borrow out of limb n - 1 (R101). -/
theorem subBorrow_add :
    (subBorrow n a b).1 < 2 ^ (64 * n) ∧
      (subBorrow n a b).1 + b % 2 ^ (64 * n) = a % 2 ^ (64 * n) + (subBorrow n a b).2.toNat * 2 ^ (64 * n) := by
  induction n with
  | zero => simp [subBorrow, Nat.mod_one]
  | succ n ih =>
    obtain ⟨hlt, heq⟩ := ih
    have hdigit := subBorrow_digit (limb_lt a n) (limb_lt b n) (subBorrow n a b).2.toNat_le
    rw [mod_pow_succ, mod_pow_succ]
    simp only [subBorrow]
    refine ⟨add_digit_lt_pow_succ n hlt (by omega), ?_⟩
    rw [pow_limb_succ]
    linear_combination heq + 2 ^ (64 * n) * hdigit

/-- AddCarry of the low n limbs: the sum has n limbs and the carry out of limb n - 1 above them (R102). -/
theorem addCarry_add :
    (addCarry n a b).1 < 2 ^ (64 * n) ∧
      (addCarry n a b).1 + (addCarry n a b).2.toNat * 2 ^ (64 * n) = a % 2 ^ (64 * n) + b % 2 ^ (64 * n) := by
  induction n with
  | zero => simp [addCarry, Nat.mod_one]
  | succ n ih =>
    obtain ⟨hlt, heq⟩ := ih
    have hdigit := addCarry_digit (limb_lt a n) (limb_lt b n) (addCarry n a b).2.toNat_le
    rw [mod_pow_succ, mod_pow_succ]
    simp only [addCarry]
    refine ⟨add_digit_lt_pow_succ n hlt (Nat.mod_lt _ (by norm_num)), ?_⟩
    rw [pow_limb_succ]
    linear_combination heq + 2 ^ (64 * n) * hdigit

/-- Select of the low n limbs: a mask of all ones keeps a limb, and a mask of zeros drops it (R103). -/
theorem select_eq_mod (c : Bool) (x y : Nat) :
    select n c x y = if c then x % 2 ^ (64 * n) else y % 2 ^ (64 * n) := by
  induction n with
  | zero => simp [select, Nat.mod_one]
  | succ n ih =>
    have hkeep (v : Nat) : limb v n &&& (2 ^ 64 - 1) = limb v n := by
      rw [Nat.and_two_pow_sub_one_eq_mod, Nat.mod_eq_of_lt (limb_lt v n)]
    rw [select, ih, mod_pow_succ, mod_pow_succ]
    cases c with
    | true => simpa using hkeep x
    | false => simpa using hkeep y

variable {n a b}

/-- SubBorrow of n-limb values in closed form (R101). -/
theorem subBorrow_eq (ha : a < 2 ^ (64 * n)) (hb : b < 2 ^ (64 * n)) :
    subBorrow n a b = ((a + 2 ^ (64 * n) - b) % 2 ^ (64 * n), decide (a < b)) := by
  obtain ⟨hlt, heq⟩ := subBorrow_add n a b
  rw [Nat.mod_eq_of_lt ha, Nat.mod_eq_of_lt hb] at heq
  generalize subBorrow n a b = r at hlt heq
  obtain ⟨d, borrow⟩ := r
  cases borrow with
  | true =>
    simp only [Bool.toNat_true, one_mul] at heq hlt
    rw [Nat.mod_eq_of_lt (by omega), decide_eq_true (by omega), show d = a + 2 ^ (64 * n) - b by omega]
  | false =>
    simp only [Bool.toNat_false, zero_mul, add_zero] at heq hlt
    rw [show a + 2 ^ (64 * n) - b = d + 2 ^ (64 * n) by omega, Nat.add_mod_right, Nat.mod_eq_of_lt hlt,
      decide_eq_false (by omega)]

/-- AddCarry of n-limb values in closed form (R102). -/
theorem addCarry_eq (ha : a < 2 ^ (64 * n)) (hb : b < 2 ^ (64 * n)) :
    addCarry n a b = ((a + b) % 2 ^ (64 * n), decide (2 ^ (64 * n) ≤ a + b)) := by
  obtain ⟨hlt, heq⟩ := addCarry_add n a b
  rw [Nat.mod_eq_of_lt ha, Nat.mod_eq_of_lt hb] at heq
  rw [← heq]
  generalize addCarry n a b = r at hlt ⊢
  obtain ⟨d, carry⟩ := r
  have hd : d % 2 ^ (64 * n) = d := Nat.mod_eq_of_lt hlt
  cases carry with
  | true => simp [hd]
  | false => simpa [hd] using hlt

end LimbLoops

/-- Settles O35: the difference and the borrow are determined by what the borrow owes. -/
theorem subBorrowIsDifferenceAndComparison : Obligations.SubBorrowIsDifferenceAndComparison := by
  unfold Obligations.SubBorrowIsDifferenceAndComparison
  exact fun n a b ha hb => subBorrow_eq ha hb

/-- Settles O36: the sum and the carry are determined by what the carry is worth. -/
theorem addCarryIsSumAndCarry : Obligations.AddCarryIsSumAndCarry := by
  unfold Obligations.AddCarryIsSumAndCarry
  exact fun n a b ha hb => addCarry_eq ha hb

/-- Settles O37: the low n limbs of an n-limb value are the value. -/
theorem selectIsTheChoice : Obligations.SelectIsTheChoice := by
  unfold Obligations.SelectIsTheChoice
  intro n x y c hx hy
  rw [select_eq_mod, Nat.mod_eq_of_lt hx, Nat.mod_eq_of_lt hy]

section Reduce

variable {c : Inst} {v : Nat}

/-- Reduce of an N-limb value in closed form (R104). -/
theorem reduce_eq (hv : v < radix c) : reduce c v = if v < c.q then v else v - c.q := by
  have hq : c.q < radix c := c.q_lt_radix
  unfold reduce
  simp only [subBorrow_eq hv hq, select_eq_mod, decide_eq_true_eq]
  unfold radix at hv hq
  split
  · exact Nat.mod_eq_of_lt hv
  · rw [Nat.mod_mod, show v + 2 ^ (64 * c.n) - c.q = v - c.q + 2 ^ (64 * c.n) by omega, Nat.add_mod_right,
      Nat.mod_eq_of_lt (by omega)]

theorem reduce_of_lt (h : v < c.q) : reduce c v = v := by
  rw [reduce_eq (h.trans c.q_lt_radix), if_pos h]

theorem reduce_of_le (hv : v < radix c) (h : c.q ≤ v) : reduce c v = v - c.q := by
  rw [reduce_eq hv, if_neg h.not_gt]

theorem reduce_le (hv : v < radix c) : reduce c v ≤ v := by
  rw [reduce_eq hv]
  split <;> omega

/-- Below 2Q, Reduce is the canonical residue (R107). -/
theorem reduce_eq_mod (h : v < 2 * c.q) : reduce c v = v % c.q := by
  rw [reduce_eq (h.trans c.two_q_lt)]
  split
  · rw [Nat.mod_eq_of_lt ‹_›]
  · rw [Nat.mod_eq_sub_mod (by omega), Nat.mod_eq_of_lt (by omega)]

theorem reduce_lt (h : v < 2 * c.q) : reduce c v < c.q := by
  rw [reduce_eq_mod h]
  exact Nat.mod_lt _ c.q_pos

end Reduce

/-- Settles O38: the borrow of v - Q selects v. -/
theorem reduceSubtractsTheModulusOnce : Obligations.ReduceSubtractsTheModulusOnce := by
  unfold Obligations.ReduceSubtractsTheModulusOnce
  exact fun c v hv => reduce_eq hv

/-- Settles O39: below 2Q Reduce gives a canonical value, which it then keeps; from 2Q on it gives v - Q, still at least
Q, and takes Q off once more. -/
theorem reduceIsIdempotentBelowTwiceTheModulus : Obligations.ReduceIsIdempotentBelowTwiceTheModulus := by
  unfold Obligations.ReduceIsIdempotentBelowTwiceTheModulus
  refine fun c v hv =>
    ⟨fun h => ⟨reduce_lt h, ?_, reduce_eq_mod h, reduce_of_lt (reduce_lt h)⟩, fun h => ?_, reduce_of_lt⟩
  · rw [reduce_eq_mod h, Nat.mod_mod]
  · have hpos := c.q_pos
    have honce : reduce c v = v - c.q := reduce_of_le hv (by omega)
    have htwice : reduce c (v - c.q) = v - c.q - c.q := reduce_of_le (by omega) (by omega)
    rw [honce, htwice]
    omega

section Results

variable {s : State} {i : Instr} {rd ra : Reg}

/-- A command of one destination whose arm writes the given result, or draws (R63, R105). -/
theorem completes_with_result {res : Option Nat} (hdests : destsOf i = [rd])
    (h : exec i s = .next (s.writeResult rd res).retire) :
    ∃ t, exec i s = .next t ∧ Holds t rd (drawnOr s.draws res % radix s.inst) ∧ Completes s t [rd] ∧
      t.draws = s.draws + if res.isNone then 1 else 0 :=
  ⟨_, h, ⟨s.writeResult_defined_same rd res, s.writeResult_val_same rd res⟩, hdests ▸ exec_next_completes h,
    s.writeResult_draws rd res⟩

/-- A command of one destination whose arm writes an N-limb value completes with it and draws nothing (R63). -/
theorem completes_with_value {v : Nat} (hdests : destsOf i = [rd])
    (h : exec i s = .next (s.writeResult rd (some v)).retire) (hv : v < radix s.inst) :
    ∃ t, exec i s = .next t ∧ Holds t rd v ∧ Completes s t [rd] ∧ t.draws = s.draws := by
  have ht := completes_with_result hdests h
  rwa [show drawnOr s.draws (some v) % radix s.inst = v from Nat.mod_eq_of_lt hv] at ht

/-- Out of domain, every legal command draws a free value for each destination, in order (R105). -/
theorem exec_of_not_inDomain (hwf : i.wf = true) (h : s.inDomain i = false) :
    exec i s = .next (s.writeResults ((destsOf i).map fun r => (r, none))).retire := by
  have hout : ¬s.inDomain i = true := Bool.eq_false_iff.1 h
  cases i with
  | fmul rd | fred rd | ffrom rd | fmul3 rd | fmul5 rd | fmul13 rd =>
    exact congrArg (fun res => Host.Outcome.next (s.writeResult rd res).retire) (if_neg hout)
  | fbfly rd ra =>
    have hne : rd ≠ ra := of_decide_eq_true hwf
    have hres : (if s.canonical rd && s.canonical ra then some (bfly s.inst (s.val rd) (s.val ra)) else none) = none :=
      if_neg hout
    simp only [exec, execFbfly, if_neg hne, hres]
    rfl

/-- Out of domain, a command of one destination writes the next draw to it (R105). -/
theorem completes_with_draw (hwf : i.wf = true) (h : s.inDomain i = false) (hdests : destsOf i = [rd]) :
    ∃ t, exec i s = .next t ∧ Holds t rd (Config.anyElem s.draws % radix s.inst) ∧ Completes s t [rd] ∧
      t.draws = s.draws + 1 := by
  have hexec := exec_of_not_inDomain hwf h
  rw [hdests] at hexec
  exact completes_with_result (s := s) (res := none) hdests hexec

/-- Out of domain, a butterfly writes the next two draws, the sum's first (R105, R161). -/
theorem fbfly_completes_with_draws (hne : rd ≠ ra) (h : (s.canonical rd && s.canonical ra) = false) :
    ∃ t, exec (.fbfly rd ra) s = .next t ∧ Holds t rd (Config.anyElem s.draws % radix s.inst) ∧
      Holds t ra (Config.anyElem (s.draws + 1) % radix s.inst) ∧ Completes s t [rd, ra] ∧ t.draws = s.draws + 2 := by
  have hexec := exec_of_not_inDomain (i := .fbfly rd ra) (decide_eq_true hne) h
  let u : State := s.writeResult rd none
  refine ⟨(u.writeResult ra none).retire, hexec, ⟨?_, ?_⟩, ⟨?_, ?_⟩, exec_next_completes hexec, ?_⟩
  · exact (u.writeResult_defined_other none hne).trans (s.writeResult_defined_same rd none)
  · exact (u.writeResult_val_other none hne).trans (s.writeResult_val_same rd none)
  · exact u.writeResult_defined_same ra none
  · exact u.writeResult_val_same ra none
  · exact u.writeResult_draws ra none

end Results

/-- Settles O51: `fred` writes Reduce of the register, which is no more than the register held. -/
theorem fredReducesEveryValue : Obligations.FredReducesEveryValue := by
  unfold Obligations.FredReducesEveryValue
  intro s rd h
  have hval : s.val rd < radix s.inst := s.val_lt rd
  have hexec : exec (.fred rd) s = .next (s.writeResult rd (some (reduce s.inst (s.val rd)))).retire :=
    congrArg (fun res => Host.Outcome.next (s.writeResult rd res).retire) (if_pos h)
  rw [← reduce_eq hval]
  exact completes_with_value rfl hexec ((reduce_le hval).trans_lt hval)

/-- Settles O56: out of domain, each destination receives a draw of its own. -/
theorem outOfDomainSourcesGiveFreeValues : Obligations.OutOfDomainSourcesGiveFreeValues := by
  unfold Obligations.OutOfDomainSourcesGiveFreeValues
  refine fun s => ⟨fun rd ra rb h => completes_with_draw rfl h rfl, fun rd h => completes_with_draw rfl h rfl,
    fun rd i h hi => ?_, fun rd ra hne h => fbfly_completes_with_draws hne h⟩
  simp only [List.mem_cons, List.not_mem_nil, or_false] at hi
  rcases hi with rfl | rfl | rfl | rfl <;> exact completes_with_draw rfl h rfl

end Sys2Proof.Machine

/-! Multiply (41_multiply.md): the reduction micro-step (R120), the width and the value of the accumulator of MontMul
and FromMont (R121, R122, R126), the limb-level schedule (R123), and the commands `fmul` and `ffrom` (R124, R128). -/

namespace Sys2Proof.Machine

section MicroStep

variable (c : Inst) (t : Nat)

/-- The quotient digit m of a reduction micro-step (R120). -/
def quotientDigit : Nat := t % 2 ^ 64 * (qinv0 c).toNat % 2 ^ 64

theorem redcStep_eq : redcStep c t = (t + quotientDigit c t * c.q) / 2 ^ 64 := rfl

theorem quotientDigit_lt : quotientDigit c t < 2 ^ 64 := Nat.mod_lt _ (by norm_num)

/-- Q · QINV0 = -1 modulo 2^64, on integers (R9). -/
theorem q_mul_qinv0_mod : c.q * (qinv0 c).toNat % 2 ^ 64 = 2 ^ 64 - 1 :=
  (q_mul_mod_iff c _).2 ((q_mul_eq_neg_one_iff c _).2 rfl)

/-- T + m · Q is T · (1 + QINV0 · Q) modulo 2^64, and 1 + QINV0 · Q is 0 there (R120). -/
theorem dvd_add_quotientDigit_mul : 2 ^ 64 ∣ t + quotientDigit c t * c.q := by
  have hdigit : quotientDigit c t ≡ t * (qinv0 c).toNat [MOD 2 ^ 64] :=
    (Nat.mod_modEq _ _).trans ((Nat.mod_modEq t _).mul_right _)
  have hinverse : 2 ^ 64 ∣ 1 + c.q * (qinv0 c).toNat := by
    have := q_mul_qinv0_mod c
    omega
  rw [← Nat.modEq_zero_iff_dvd]
  calc t + quotientDigit c t * c.q
      ≡ t + t * (qinv0 c).toNat * c.q [MOD 2 ^ 64] := (hdigit.mul_right _).add_left _
    _ = t * (1 + c.q * (qinv0 c).toNat) := by ring
    _ ≡ 0 [MOD 2 ^ 64] := Nat.modEq_zero_iff_dvd.2 (hinverse.mul_left t)

/-- The shift of a micro-step drops only zero bits (R120). -/
theorem redcStep_mul : redcStep c t * 2 ^ 64 = t + quotientDigit c t * c.q :=
  Nat.div_mul_cancel (dvd_add_quotientDigit_mul c t)

theorem redcStep_mul_modEq : redcStep c t * 2 ^ 64 ≡ t [MOD c.q] := by
  rw [redcStep_mul]
  exact Nat.add_mul_modulus_modEq_iff.2 rfl

/-- A micro-step adds at most (2^64 - 1) · Q (R122). -/
theorem redcStep_mul_add_le : redcStep c t * 2 ^ 64 + c.q ≤ t + 2 ^ 64 * c.q := by
  have hdigit : (quotientDigit c t + 1) * c.q ≤ 2 ^ 64 * c.q := Nat.mul_le_mul_right _ (quotientDigit_lt c t)
  rw [redcStep_mul]
  linarith

end MicroStep

/-- Settles O40: Q · QINV0 = -1 modulo 2^64 makes the division exact. -/
theorem redcStepDividesExactly : Obligations.RedcStepDividesExactly := by
  unfold Obligations.RedcStepDividesExactly
  exact fun c t _ => ⟨redcStep_mul c t, redcStep_mul_modEq c t⟩

section Radix

variable {c : Inst} {x y : Nat}

theorem one_lt_q (c : Inst) : 1 < c.q := Nat.lt_of_lt_of_le (by norm_num) c.three_le

theorem q_coprime_radix (c : Inst) : Nat.Coprime c.q (radix c) :=
  ((Nat.coprime_two_left.2 (Nat.odd_iff.2 c.odd)).pow_left _).symm

/-- R is invertible modulo Q (R121), so a canonical value is determined by its product with R. -/
theorem eq_of_mul_radix_modEq (hx : x < c.q) (hy : y < c.q) (h : x * radix c ≡ y * radix c [MOD c.q]) : x = y :=
  (Nat.ModEq.cancel_right_of_coprime (q_coprime_radix c) h).eq_of_lt_of_lt hx hy

theorem enc_lt (c : Inst) (x : Nat) : enc c x < c.q := Nat.mod_lt _ c.q_pos

theorem enc_modEq (c : Inst) (x : Nat) : enc c x ≡ x * radix c [MOD c.q] := Nat.mod_modEq _ _

end Radix

section MontMul

variable {c : Inst} {a b : Nat}

/-- Every value within a pass is below 2Q · 2^64, if the accumulator is below 2Q (R122). -/
theorem pass_value_lt {t d : Nat} (ht : t < 2 * c.q) (ha : a < c.q) (hd : d < 2 ^ 64) :
    t + a * d + (2 ^ 64 - 1) * c.q < 2 * c.q * 2 ^ 64 := by
  have had : a * d ≤ (c.q - 1) * (2 ^ 64 - 1) := Nat.mul_le_mul (by omega) (by omega)
  omega

theorem montMulPasses_lt (ha : a < c.q) (b i : Nat) : montMulPasses c a b i < 2 * c.q := by
  induction i with
  | zero => exact Nat.mul_pos two_pos c.q_pos
  | succ i ih =>
    have hle := redcStep_mul_add_le c (montMulPasses c a b i + a * limb b i)
    have hlt := pass_value_lt ih ha (limb_lt b i)
    have hmul : redcStep c (montMulPasses c a b i + a * limb b i) * 2 ^ 64 < 2 * c.q * 2 ^ 64 := by omega
    exact Nat.lt_of_mul_lt_mul_right hmul

/-- 2Q fits in N limbs, so every value within a pass fits in N+1 (R122). -/
theorem montMulPasses_add_lt (ha : a < c.q) (b i : Nat) :
    montMulPasses c a b i + a * limb b i + (2 ^ 64 - 1) * c.q < 2 ^ (64 * (c.n + 1)) := by
  refine (pass_value_lt (montMulPasses_lt ha b i) ha (limb_lt b i)).trans ?_
  have := c.two_q_lt
  rw [pow_limb_succ]
  omega

/-- After i passes the accumulator is a · b · 2^(-64i) modulo Q, of the low i limbs of b (R121). -/
theorem montMulPasses_mul_modEq (c : Inst) (a b i : Nat) :
    montMulPasses c a b i * 2 ^ (64 * i) ≡ a * (b % 2 ^ (64 * i)) [MOD c.q] := by
  induction i with
  | zero => simp [montMulPasses, Nat.mod_one, Nat.ModEq]
  | succ i ih =>
    calc montMulPasses c a b (i + 1) * 2 ^ (64 * (i + 1))
        = redcStep c (montMulPasses c a b i + a * limb b i) * 2 ^ 64 * 2 ^ (64 * i) := by
          rw [montMulPasses, pow_limb_succ, mul_assoc]
      _ ≡ (montMulPasses c a b i + a * limb b i) * 2 ^ (64 * i) [MOD c.q] := (redcStep_mul_modEq c _).mul_right _
      _ = montMulPasses c a b i * 2 ^ (64 * i) + a * limb b i * 2 ^ (64 * i) := add_mul _ _ _
      _ ≡ a * (b % 2 ^ (64 * i)) + a * limb b i * 2 ^ (64 * i) [MOD c.q] := ih.add_right _
      _ = a * (b % 2 ^ (64 * (i + 1))) := by rw [mod_pow_succ]; ring

theorem montMul_lt (ha : a < c.q) (b : Nat) : montMul c a b < c.q := reduce_lt (montMulPasses_lt ha b c.n)

/-- MontMul(a, b) · R = a · b modulo Q (R121). -/
theorem montMul_mul_radix_modEq (ha : a < c.q) (hb : b < c.q) : montMul c a b * radix c ≡ a * b [MOD c.q] := by
  have hpasses := montMulPasses_mul_modEq c a b c.n
  rw [Nat.mod_eq_of_lt (hb.trans c.q_lt_radix)] at hpasses
  rw [montMul, reduce_eq_mod (montMulPasses_lt ha b c.n)]
  exact ((Nat.mod_modEq _ _).mul_right _).trans hpasses

/-- A canonical value whose product with R is a · b modulo Q is MontMul(a, b) (R121). -/
theorem montMul_eq_of_modEq {x : Nat} (ha : a < c.q) (hb : b < c.q) (hx : x < c.q)
    (h : x * radix c ≡ a * b [MOD c.q]) : montMul c a b = x :=
  eq_of_mul_radix_modEq (montMul_lt ha b) hx ((montMul_mul_radix_modEq ha hb).trans h.symm)

theorem montMul_comm (ha : a < c.q) (hb : b < c.q) : montMul c a b = montMul c b a :=
  montMul_eq_of_modEq ha hb (montMul_lt hb a) (mul_comm a b ▸ montMul_mul_radix_modEq hb ha)

/-- The encoding of 1 is the one of the product (R124, R127). -/
theorem montMul_one_encoded (hb : b < c.q) : montMul c (radix c % c.q) b = b :=
  montMul_eq_of_modEq (Nat.mod_lt _ c.q_pos) hb hb
    (mul_comm b (radix c) ▸ (Nat.mod_modEq (radix c) c.q).symm.mul_right b)

theorem montMul_encoded (c : Inst) (x y : Nat) : montMul c (enc c x) (enc c y) = enc c (x * y % c.q) := by
  refine montMul_eq_of_modEq (enc_lt c x) (enc_lt c y) (enc_lt c _) ?_
  calc enc c (x * y % c.q) * radix c
      ≡ x * y % c.q * radix c * radix c [MOD c.q] := (enc_modEq c _).mul_right _
    _ ≡ x * y * radix c * radix c [MOD c.q] := ((Nat.mod_modEq _ _).mul_right _).mul_right _
    _ = x * radix c * (y * radix c) := by ring
    _ ≡ enc c x * enc c y [MOD c.q] := ((enc_modEq c x).mul (enc_modEq c y)).symm

/-- The host's way to encode (R125). -/
theorem montMul_radix_sq {x : Nat} (hx : x < c.q) : montMul c x (radix c * radix c % c.q) = enc c x := by
  refine montMul_eq_of_modEq hx (Nat.mod_lt _ c.q_pos) (enc_lt c x) ?_
  calc enc c x * radix c
      ≡ x * radix c * radix c [MOD c.q] := (enc_modEq c x).mul_right _
    _ = x * (radix c * radix c) := mul_assoc _ _ _
    _ ≡ x * (radix c * radix c % c.q) [MOD c.q] := (Nat.mod_modEq _ _).symm.mul_left x

theorem montMul_one_decodes {x : Nat} (hx : x < c.q) : montMul c (enc c x) 1 = x :=
  montMul_eq_of_modEq (enc_lt c x) (one_lt_q c) hx ((mul_one (enc c x)).symm ▸ (enc_modEq c x).symm)

/-- (Q - 1)² is 1 modulo Q (R124). -/
theorem q_sub_one_sq_mod (c : Inst) : (c.q - 1) * (c.q - 1) % c.q = 1 := by
  obtain ⟨k, hk⟩ : ∃ k, c.q = k + 2 := ⟨c.q - 2, by have := c.three_le; omega⟩
  have hsq : (k + 1) * (k + 1) = 1 + (k + 2) * k := by ring
  rw [hk, Nat.add_succ_sub_one, hsq, Nat.add_mul_mod_self_left]
  exact Nat.mod_eq_of_lt (by omega)

end MontMul

/-- Settles O41: a pass keeps the accumulator below 2Q, by induction on the passes. -/
theorem accumulatorStaysBelowTwiceTheModulus : Obligations.AccumulatorStaysBelowTwiceTheModulus := by
  unfold Obligations.AccumulatorStaysBelowTwiceTheModulus
  exact fun c a b ha _ i _ => ⟨montMulPasses_lt ha b i, montMulPasses_add_lt ha b i⟩

/-- Settles O42: N micro-steps divide a · b by R, and R is invertible modulo the odd Q. -/
theorem montMulIsTheMontgomeryProduct : Obligations.MontMulIsTheMontgomeryProduct := by
  unfold Obligations.MontMulIsTheMontgomeryProduct
  exact fun c a b ha hb => ⟨montMul_lt ha b, montMul_mul_radix_modEq ha hb,
    fun x hx h => (montMul_eq_of_modEq ha hb hx h).symm⟩

/-- Settles O44: each side is canonical and has the same product with R. -/
theorem montMulMultipliesEncodings : Obligations.MontMulMultipliesEncodings := by
  unfold Obligations.MontMulMultipliesEncodings
  exact fun c x y hx hy => ⟨montMul_comm hx hy, montMul_lt hx y, montMul_encoded c x y, montMul_radix_sq hx,
    montMul_one_decodes hx⟩

/-- Settles O45: 0, b and the inverse of R are the canonical values with the right product with R. -/
theorem montMulCornerCases : Obligations.MontMulCornerCases := by
  unfold Obligations.MontMulCornerCases
  intro c b hb
  have hlast : c.q - 1 < c.q := Nat.sub_lt c.q_pos one_pos
  have hzero : montMul c 0 b = 0 := montMul_eq_of_modEq c.q_pos hb c.q_pos (by rw [zero_mul, zero_mul])
  refine ⟨hzero, ?_, montMul_one_encoded hb, ?_⟩
  · rw [montMul_comm hb c.q_pos, hzero]
  · exact Eq.trans (montMul_mul_radix_modEq hlast hlast) (q_sub_one_sq_mod c)

section FromMont

variable {c : Inst} {v : Nat}

/-- i micro-steps add at most (2^(64i) - 1) · Q to v, and divide by 2^(64i) (R126, R129). -/
theorem fromMontPasses_mul_add_le (c : Inst) (v i : Nat) :
    fromMontPasses c v i * 2 ^ (64 * i) + c.q ≤ v + 2 ^ (64 * i) * c.q := by
  induction i with
  | zero => simp [fromMontPasses]
  | succ i ih =>
    have hstep := Nat.mul_le_mul_right (2 ^ (64 * i)) (redcStep_mul_add_le c (fromMontPasses c v i))
    rw [fromMontPasses, pow_limb_succ]
    linarith

/-- After N micro-steps the value is at most Q, for every N-limb v (R126, R129). -/
theorem fromMontPasses_le (hv : v < radix c) : fromMontPasses c v c.n ≤ c.q := by
  have hle := fromMontPasses_mul_add_le c v c.n
  have hq := c.q_pos
  unfold radix at hv
  have hlt : fromMontPasses c v c.n * 2 ^ (64 * c.n) < (c.q + 1) * 2 ^ (64 * c.n) := by linarith
  exact Nat.le_of_lt_succ (Nat.lt_of_mul_lt_mul_right hlt)

/-- After i micro-steps the value is v · 2^(-64i) modulo Q (R126). -/
theorem fromMontPasses_mul_modEq (c : Inst) (v i : Nat) : fromMontPasses c v i * 2 ^ (64 * i) ≡ v [MOD c.q] := by
  induction i with
  | zero => simp [fromMontPasses, Nat.ModEq]
  | succ i ih =>
    rw [fromMontPasses, pow_limb_succ, ← mul_assoc]
    exact ((redcStep_mul_modEq c _).mul_right _).trans ih

theorem fromMontPasses_lt (hv : v < radix c) : fromMontPasses c v c.n < 2 * c.q := by
  have := c.q_pos
  have := fromMontPasses_le hv
  omega

theorem fromMont_lt (hv : v < radix c) : fromMont c v < c.q := reduce_lt (fromMontPasses_lt hv)

/-- FromMont(v) · R = v modulo Q (R126). -/
theorem fromMont_mul_radix_modEq (hv : v < radix c) : fromMont c v * radix c ≡ v [MOD c.q] := by
  rw [fromMont, reduce_eq_mod (fromMontPasses_lt hv)]
  exact ((Nat.mod_modEq _ _).mul_right _).trans (fromMontPasses_mul_modEq c v c.n)

/-- The converter is the product with the integer 1 (R127). -/
theorem montMul_one_eq_fromMont (hv : v < c.q) : montMul c v 1 = fromMont c v := by
  have hradix : v < radix c := hv.trans c.q_lt_radix
  exact montMul_eq_of_modEq hv (one_lt_q c) (fromMont_lt hradix)
    ((mul_one v).symm ▸ fromMont_mul_radix_modEq hradix)

end FromMont

/-- Settles O46: N micro-steps divide v by R, and leave at most Q for every N-limb v. -/
theorem fromMontDecodes : Obligations.FromMontDecodes := by
  unfold Obligations.FromMontDecodes
  exact fun c v hv => ⟨fromMont_lt hv, fromMont_mul_radix_modEq hv, fun x hx h =>
    eq_of_mul_radix_modEq hx (fromMont_lt hv) (Nat.ModEq.trans h (fromMont_mul_radix_modEq hv).symm)⟩

/-- Settles O47: both sides are canonical and have the product v with R. -/
theorem fromMontIsMontMulByOne : Obligations.FromMontIsMontMulByOne := by
  unfold Obligations.FromMontIsMontMulByOne
  intro c v hv
  refine ⟨(montMul_one_eq_fromMont hv).symm, ?_⟩
  rw [montMul_comm hv (Nat.mod_lt _ c.q_pos), montMul_one_encoded hv]

section LimbSchedule

/-- The value of an accumulator of R123: its limbs, and the top limb above them. -/
def accValue (t : List Nat × Nat) : Nat := valOf t.1 + 2 ^ (64 * t.1.length) * t.2

theorem valOf_replicate_zero (n : Nat) : valOf (List.replicate n 0) = 0 := by
  induction n with
  | zero => rfl
  | succ n ih => simp [List.replicate_succ, valOf, ih]

theorem carryChain_length (d : Nat) (ts xs : List Nat) (carry : Nat) (h : ts.length = xs.length) :
    (carryChain d ts xs carry).1.length = ts.length := by
  induction ts generalizing xs carry with
  | nil => cases xs <;> rfl
  | cons t ts ih =>
    cases xs with
    | nil => cases h
    | cons x xs => exact congrArg Nat.succ (ih xs _ (Nat.succ.inj h))

/-- A carry chain adds d times the operand to the limbs, and the carry out is worth a limb above them (R123). -/
theorem carryChain_value (d : Nat) (ts xs : List Nat) (carry : Nat) (h : ts.length = xs.length) :
    accValue (carryChain d ts xs carry) = valOf ts + valOf xs * d + carry := by
  induction ts generalizing xs carry with
  | nil =>
    obtain rfl := List.length_eq_zero_iff.1 h.symm
    simp [accValue, carryChain, valOf]
  | cons t ts ih =>
    cases xs with
    | nil => cases h
    | cons x xs =>
      have hrest := ih xs ((t + x * d + carry) / 2 ^ 64) (Nat.succ.inj h)
      have hdigit := Nat.mod_add_div (t + x * d + carry) (2 ^ 64)
      simp only [accValue] at hrest ⊢
      simp only [carryChain, valOf, List.length_cons, pow_limb_succ]
      linear_combination 2 ^ 64 * hrest + hdigit

/-- One chain of R123 with its carry added to the top limb: the accumulator plus d times the operand. -/
def addMul (d : Nat) (xs : List Nat) (t : List Nat × Nat) : List Nat × Nat :=
  ((carryChain d t.1 xs 0).1, t.2 + (carryChain d t.1 xs 0).2)

/-- The shift of R123: the low limb is dropped, and the low word of the top sum becomes the highest limb. -/
def shiftLimb (t : List Nat × Nat) : List Nat × Nat := (t.1.tail ++ [t.2 % 2 ^ 64], t.2 / 2 ^ 64)

variable {c : Inst} {d : Nat} {xs : List Nat} {t : List Nat × Nat}

theorem addMul_length (h : t.1.length = xs.length) : (addMul d xs t).1.length = t.1.length :=
  carryChain_length d t.1 xs 0 h

theorem accValue_addMul (h : t.1.length = xs.length) : accValue (addMul d xs t) = accValue t + valOf xs * d := by
  have hchain := carryChain_value d t.1 xs 0 h
  simp only [accValue, addMul, carryChain_length d t.1 xs 0 h] at hchain ⊢
  linear_combination hchain

theorem headD_addMul_lt (d : Nat) (xs : List Nat) (t : List Nat × Nat) : (addMul d xs t).1.headD 0 < 2 ^ 64 := by
  obtain ⟨ts, top⟩ := t
  cases ts with
  | nil => exact Nat.two_pow_pos 64
  | cons t ts =>
    cases xs with
    | nil => exact Nat.two_pow_pos 64
    | cons x xs => exact Nat.mod_lt _ (Nat.two_pow_pos 64)

theorem shiftLimb_length (h : 0 < t.1.length) : (shiftLimb t).1.length = t.1.length := by
  simp only [shiftLimb, List.length_append, List.length_tail, List.length_singleton]
  omega

/-- The value as its low limb and what stands above it. -/
theorem accValue_cons (x : Nat) (xs : List Nat) (s : Nat) :
    accValue (x :: xs, s) = x + 2 ^ 64 * accValue (xs, s) := by
  simp only [accValue, valOf, List.length_cons, pow_limb_succ]
  ring

theorem accValue_shiftLimb (hlen : 0 < t.1.length) (hhead : t.1.headD 0 < 2 ^ 64) :
    accValue (shiftLimb t) = accValue t / 2 ^ 64 := by
  obtain ⟨ts, s⟩ := t
  cases ts with
  | nil => cases hlen
  | cons x xs =>
    have hs := Nat.mod_add_div s (2 ^ 64)
    have hx : x / 2 ^ 64 = 0 := Nat.div_eq_of_lt hhead
    rw [accValue_cons, Nat.add_mul_div_left _ _ (Nat.two_pow_pos 64), hx, zero_add]
    simp only [accValue, shiftLimb, List.tail_cons, valOf_append, List.length_append, List.length_singleton,
      pow_limb_succ, valOf]
    linear_combination 2 ^ (64 * xs.length) * hs

/-- The quotient digit needs the lowest limb only (R120, R123). -/
theorem quotientDigit_accValue (c : Inst) (hlen : 0 < t.1.length) :
    quotientDigit c (accValue t) = t.1.headD 0 * (qinv0 c).toNat % 2 ^ 64 := by
  obtain ⟨ts, s⟩ := t
  cases ts with
  | nil => cases hlen
  | cons x xs =>
    rw [quotientDigit, accValue_cons, Nat.add_mul_mod_self_left, Nat.mod_mul_mod]
    rfl

theorem top_lt_of_accValue_lt (h : accValue t < 2 ^ (64 * (t.1.length + 1))) : t.2 < 2 ^ 64 := by
  have hle : 2 ^ (64 * t.1.length) * t.2 ≤ accValue t := Nat.le_add_left _ _
  rw [pow_limb_succ, mul_comm] at h
  exact Nat.lt_of_mul_lt_mul_left (hle.trans_lt h)

/-- A pass whose first chain carries nothing out of limb N is the two chains and the shift (R123). -/
theorem ciosPass_eq (hlen : 0 < t.1.length) (h : t.1.length = xs.length) (htop : (addMul d xs t).2 < 2 ^ 64) :
    ciosPass c xs d t =
      shiftLimb (addMul (quotientDigit c (accValue (addMul d xs t))) (limbsOf c.n c.q) (addMul d xs t)) := by
  have htop' : (t.2 + (carryChain d t.1 xs 0).2) % 2 ^ 64 = t.2 + (carryChain d t.1 xs 0).2 := Nat.mod_eq_of_lt htop
  rw [quotientDigit_accValue c ((addMul_length h).symm ▸ hlen)]
  simp only [ciosPass, htop']
  rfl

/-- A chain over the limbs of v adds v times d (R123). -/
theorem addMul_limbsOf {n v : Nat} (hlen : t.1.length = n) (hv : v < 2 ^ (64 * n)) :
    (addMul d (limbsOf n v) t).1.length = n ∧ accValue (addMul d (limbsOf n v) t) = accValue t + v * d := by
  have hlimbs : t.1.length = (limbsOf n v).length := hlen.trans (limbsOf_length n v).symm
  refine ⟨(addMul_length hlimbs).trans hlen, ?_⟩
  rw [accValue_addMul hlimbs, valOf_limbsOf, Nat.mod_eq_of_lt hv]

/-- A pass of the limb-level schedule is a pass of R121 on the accumulator's value. -/
theorem ciosPass_spec {a : Nat} (ha : a < c.q) (hlen : t.1.length = c.n)
    (hlt : accValue t + a * d < 2 ^ (64 * (c.n + 1))) :
    (ciosPass c (limbsOf c.n a) d t).1.length = c.n ∧
      accValue (ciosPass c (limbsOf c.n a) d t) = redcStep c (accValue t + a * d) := by
  have hpos : 0 < c.n := c.limbs.toNat_pos
  obtain ⟨hmaclen, hmac⟩ := addMul_limbsOf (d := d) hlen (ha.trans c.q_lt_radix)
  have htop : (addMul d (limbsOf c.n a) t).2 < 2 ^ 64 := top_lt_of_accValue_lt (by rwa [hmac, hmaclen])
  rw [ciosPass_eq (by rwa [hlen]) (by rw [hlen, limbsOf_length]) htop, hmac]
  obtain ⟨hredlen, hred⟩ :=
    addMul_limbsOf (d := quotientDigit c (accValue t + a * d)) hmaclen c.q_lt_radix
  rw [shiftLimb_length (by rwa [hredlen]), accValue_shiftLimb (by rwa [hredlen]) (headD_addMul_lt _ _ _), hred, hmac,
    mul_comm c.q]
  exact ⟨hredlen, rfl⟩

/-- The limb-level schedule refines R121: after every pass the accumulator has its N limbs, the value of R121's, and so
a top limb of 0 (R122, R123). -/
theorem ciosPasses_spec {a : Nat} (ha : a < c.q) (b i : Nat) :
    (ciosPasses c a b i).1.length = c.n ∧ accValue (ciosPasses c a b i) = montMulPasses c a b i := by
  induction i with
  | zero => exact ⟨List.length_replicate, valOf_replicate_zero c.n⟩
  | succ i ih =>
    obtain ⟨hlen, hvalue⟩ := ih
    have hpass := ciosPass_spec (d := limb b i) ha hlen
    rw [hvalue] at hpass
    exact hpass (by have := montMulPasses_add_lt ha b i; omega)

/-- A value of N limbs leaves the top limb 0. -/
theorem valOf_eq_accValue (h : accValue t < 2 ^ (64 * t.1.length)) : valOf t.1 = accValue t := by
  have htop : t.2 = 0 := by
    by_contra hne
    have := Nat.le_mul_of_pos_right (2 ^ (64 * t.1.length)) (Nat.pos_of_ne_zero hne)
    unfold accValue at h
    omega
  rw [accValue, htop, mul_zero, add_zero]

end LimbSchedule

/-- Settles O43: each pass of limbs has the value of a pass of R121, and below 2Q the top limb is 0. -/
theorem limbScheduleComputesMontMul : Obligations.LimbScheduleComputesMontMul := by
  unfold Obligations.LimbScheduleComputesMontMul
  intro c a b ha _
  obtain ⟨hlen, hvalue⟩ := ciosPasses_spec ha b c.n
  have hlt : accValue (ciosPasses c a b c.n) < 2 ^ (64 * (ciosPasses c a b c.n).1.length) := by
    rw [hlen, hvalue]
    exact (montMulPasses_lt ha b c.n).trans c.two_q_lt
  rw [montMulLimbs, montMul, valOf_eq_accValue hlt, hvalue]

section Commands

variable {s : State} {rd ra rb : Reg}

theorem exec_fmul_of_canonical (hra : s.canonical ra = true) (hrb : s.canonical rb = true) :
    exec (.fmul rd ra rb) s =
      .next (s.writeResult rd (some (montMul s.inst (s.val ra) (s.val rb)))).retire :=
  congrArg (fun res => Host.Outcome.next (s.writeResult rd res).retire) (if_pos (Bool.and_eq_true_iff.2 ⟨hra, hrb⟩))

theorem exec_ffrom_of_canonical (hrd : s.canonical rd = true) :
    exec (.ffrom rd) s = .next (s.writeResult rd (some (fromMont s.inst (s.val rd)))).retire :=
  congrArg (fun res => Host.Outcome.next (s.writeResult rd res).retire) (if_pos hrd)

end Commands

/-- Settles O50: both sources are read before the write, so the product is of the old values whatever registers
coincide. -/
theorem fmulWritesTheMontgomeryProduct : Obligations.FmulWritesTheMontgomeryProduct := by
  unfold Obligations.FmulWritesTheMontgomeryProduct
  intro s rd ra rb hra hrb
  have ha := ((s.canonical_iff ra).1 hra).2
  have hb := ((s.canonical_iff rb).1 hrb).2
  have hlt := montMul_lt ha (s.val rb)
  obtain ⟨t, hexec, hholds, hcompletes, hdraws⟩ :=
    completes_with_value rfl (exec_fmul_of_canonical (rd := rd) hra hrb) (hlt.trans s.inst.q_lt_radix)
  have hval : t.val rd = montMul s.inst (s.val ra) (s.val rb) := hholds.2
  exact ⟨t, hexec, hholds, hval ▸ hlt, hval ▸ montMul_mul_radix_modEq ha hb, hcompletes, hdraws⟩

/-- Settles O52: a canonical register is decoded in place. -/
theorem ffromDecodesInPlace : Obligations.FfromDecodesInPlace := by
  unfold Obligations.FfromDecodesInPlace
  intro s rd hrd
  have hradix : s.val rd < radix s.inst := s.val_lt rd
  have hlt := fromMont_lt hradix
  obtain ⟨t, hexec, hholds, hcompletes, hdraws⟩ :=
    completes_with_value rfl (exec_ffrom_of_canonical hrd) (hlt.trans s.inst.q_lt_radix)
  have hval : t.val rd = fromMont s.inst (s.val rd) := hholds.2
  exact ⟨t, hexec, hholds, hval ▸ hlt, hval ▸ fromMont_mul_radix_modEq hradix, hcompletes, hdraws⟩

end Sys2Proof.Machine

/-! Small constants (42_small_const.md): Double and AddX as modular addition (R140), the chains of MulBy3, MulBy5 and
MulBy13 (R141, R145), and the commands `fmul3`, `fmul5` and `fmul13` (R142 to R144). -/

namespace Sys2Proof.Machine

section Chains

variable {c : Inst} {x y : Nat}

/-- AddX of canonical values: the sum is below 2Q, so it fits in N limbs and one Reduce makes it canonical (R140). -/
theorem addX_eq_mod (hy : y < c.q) (hx : x < c.q) : addX c y x = (y + x) % c.q := by
  have hsum : y + x < 2 * c.q := by omega
  rw [addX, addCarry_eq (hy.trans c.q_lt_radix) (hx.trans c.q_lt_radix), Nat.mod_eq_of_lt (hsum.trans c.two_q_lt),
    reduce_eq_mod hsum]

theorem double_eq_mod (hx : x < c.q) : double c x = 2 * x % c.q :=
  (addX_eq_mod hx hx).trans (by rw [two_mul])

/-! What a link of a chain makes of the residue of j · x (R141). -/

theorem double_multiple (c : Inst) (j x : Nat) : double c (j * x % c.q) = 2 * j * x % c.q := by
  rw [double_eq_mod (Nat.mod_lt _ c.q_pos), Nat.mul_mod_mod, mul_assoc]

theorem addX_multiple (j : Nat) (hx : x < c.q) : addX c (j * x % c.q) x = (j + 1) * x % c.q := by
  rw [addX_eq_mod (Nat.mod_lt _ c.q_pos) hx, Nat.mod_add_mod, Nat.succ_mul]

theorem mulBy3_eq (hx : x < c.q) : mulBy3 c x = 3 * x % c.q := by
  rw [mulBy3, double_eq_mod hx, addX_multiple 2 hx]

theorem mulBy5_eq (hx : x < c.q) : mulBy5 c x = 5 * x % c.q := by
  rw [mulBy5, double_eq_mod hx, double_multiple c 2 x, addX_multiple 4 hx]

theorem mulBy13_eq (hx : x < c.q) : mulBy13 c x = 13 * x % c.q := by
  rw [mulBy13, double_eq_mod hx, addX_multiple 2 hx, double_multiple c 3 x, double_multiple c 6 x, addX_multiple 12 hx]

/-- Encoding is linear, so it commutes with a product by a constant (R145). -/
theorem mul_enc_mod (c : Inst) (k x : Nat) : k * enc c x % c.q = enc c (k * x % c.q) := by
  rw [enc, enc, Nat.mul_mod_mod, Nat.mod_mul_mod, mul_assoc]

end Chains

/-- Settles O48: each link of a chain is an addition modulo Q, and encoding is linear. -/
theorem smallConstantChainsMultiply : Obligations.SmallConstantChainsMultiply := by
  unfold Obligations.SmallConstantChainsMultiply
  intro c x hx
  have henc : enc c x < c.q := enc_lt c x
  exact ⟨mulBy3_eq hx, mulBy5_eq hx, mulBy13_eq hx, (mulBy3_eq henc).trans (mul_enc_mod c 3 x),
    (mulBy5_eq henc).trans (mul_enc_mod c 5 x), (mulBy13_eq henc).trans (mul_enc_mod c 13 x)⟩

/-- A command whose arm writes v in domain, where v is k times its canonical register modulo Q, completes with it
(R142 to R144). -/
theorem completes_with_multiple {s : State} {i : Instr} {rd : Reg} {k v : Nat} (hrd : s.canonical rd = true)
    (hdests : destsOf i = [rd])
    (hexec : exec i s = .next (s.writeResult rd (if s.canonical rd then some v else none)).retire)
    (hv : v = k * s.val rd % s.inst.q) :
    ∃ t, exec i s = .next t ∧ Holds t rd (k * s.val rd % s.inst.q) ∧ Completes s t [rd] ∧ t.draws = s.draws := by
  rw [if_pos hrd, hv] at hexec
  exact completes_with_value hdests hexec ((Nat.mod_lt _ s.inst.q_pos).trans s.inst.q_lt_radix)

/-- Settles O53: the three arms write the chains of O48. -/
theorem smallConstantCommandsMultiply : Obligations.SmallConstantCommandsMultiply := by
  unfold Obligations.SmallConstantCommandsMultiply
  intro s rd hrd
  have hx : s.val rd < s.inst.q := ((s.canonical_iff rd).1 hrd).2
  exact ⟨completes_with_multiple hrd rfl rfl (mulBy3_eq hx), completes_with_multiple hrd rfl rfl (mulBy5_eq hx),
    completes_with_multiple hrd rfl rfl (mulBy13_eq hx)⟩

end Sys2Proof.Machine

/-! Butterfly (43_butterfly.md): Bfly as the sum and the difference modulo Q (R160, R163), and the command `fbfly`
(R161, R162). -/

namespace Sys2Proof.Machine

section Bfly

variable {c : Inst} {a b : Nat}

theorem bfly_fst_eq (ha : a < c.q) (hb : b < c.q) : (bfly c a b).1 = (a + b) % c.q := addX_eq_mod ha hb

/-- Without a borrow the difference stands; with one it is 2^(64N) too large, and the sum with Q wraps to a - b + Q
(R160). -/
theorem bfly_snd_eq (ha : a < c.q) (hb : b < c.q) : (bfly c a b).2 = if b ≤ a then a - b else a + c.q - b := by
  have hq : c.q < 2 ^ (64 * c.n) := c.q_lt_radix
  have hsub := subBorrow_eq (ha.trans hq) (hb.trans hq)
  have hadd := addCarry_eq (Nat.mod_lt (a + 2 ^ (64 * c.n) - b) (Nat.two_pow_pos (64 * c.n))) hq
  simp only [bfly, select_eq_mod, hsub, hadd, decide_eq_true_eq, Nat.mod_mod, Nat.mod_add_mod]
  by_cases hle : b ≤ a
  · rw [if_neg hle.not_gt, if_pos hle, show a + 2 ^ (64 * c.n) - b = a - b + 2 ^ (64 * c.n) by omega,
      Nat.add_mod_right, Nat.mod_eq_of_lt (by omega)]
  · rw [if_pos (not_le.1 hle), if_neg hle,
      show a + 2 ^ (64 * c.n) - b + c.q = a + c.q - b + 2 ^ (64 * c.n) by omega, Nat.add_mod_right,
      Nat.mod_eq_of_lt (by omega)]

/-- The canonical difference modulo Q: a - b, with Q added where b is the larger (R163). -/
theorem sub_mod_q_eq (ha : a < c.q) (hb : b < c.q) :
    (a + c.q - b) % c.q = if b ≤ a then a - b else a + c.q - b := by
  split
  · rw [Nat.sub_add_comm ‹_›, Nat.add_mod_right, Nat.mod_eq_of_lt (by omega)]
  · exact Nat.mod_eq_of_lt (by omega)

/-- Bfly is the sum and the difference modulo Q (R163). -/
theorem bfly_eq (ha : a < c.q) (hb : b < c.q) : bfly c a b = ((a + b) % c.q, (a + c.q - b) % c.q) :=
  Prod.ext (bfly_fst_eq ha hb) ((bfly_snd_eq ha hb).trans (sub_mod_q_eq ha hb).symm)

/-- A difference modulo Q is what added to b gives a. -/
theorem sub_mod_q_add_modEq (a : Nat) (hb : b < c.q) : (a + c.q - b) % c.q + b ≡ a [MOD c.q] :=
  calc (a + c.q - b) % c.q + b
      ≡ a + c.q - b + b [MOD c.q] := (Nat.mod_modEq _ _).add_right b
    _ = a + c.q := Nat.sub_add_cancel (by omega)
    _ ≡ a [MOD c.q] := Nat.add_modulus_modEq_iff.2 rfl

/-! Encoding is linear: it commutes with the sum and the difference modulo Q (R163). -/

theorem enc_add_modEq (c : Inst) (x y : Nat) : enc c x + enc c y ≡ enc c (x + y) [MOD c.q] :=
  calc enc c x + enc c y
      ≡ x * radix c + y * radix c [MOD c.q] := (enc_modEq c x).add (enc_modEq c y)
    _ = (x + y) * radix c := (add_mul x y _).symm
    _ ≡ enc c (x + y) [MOD c.q] := (enc_modEq c (x + y)).symm

theorem enc_eq_of_modEq {x y : Nat} (h : x ≡ y [MOD c.q]) : enc c x = enc c y := h.mul_right (radix c)

theorem enc_add_mod (c : Inst) (x y : Nat) : (enc c x + enc c y) % c.q = enc c ((x + y) % c.q) :=
  calc (enc c x + enc c y) % c.q
      = enc c (x + y) % c.q := enc_add_modEq c x y
    _ = enc c (x + y) := Nat.mod_eq_of_lt (enc_lt c _)
    _ = enc c ((x + y) % c.q) := enc_eq_of_modEq (Nat.mod_modEq _ _).symm

/-- Both sides are canonical and, added to the encoding of b, give the encoding of a. -/
theorem enc_sub_mod (a : Nat) (hb : b < c.q) :
    (enc c a + c.q - enc c b) % c.q = enc c ((a + c.q - b) % c.q) := by
  refine Nat.ModEq.eq_of_lt_of_lt (Nat.ModEq.add_right_cancel' (enc c b) ?_) (Nat.mod_lt _ c.q_pos) (enc_lt c _)
  calc (enc c a + c.q - enc c b) % c.q + enc c b
      ≡ enc c a [MOD c.q] := sub_mod_q_add_modEq _ (enc_lt c b)
    _ = enc c ((a + c.q - b) % c.q + b) := (enc_eq_of_modEq (sub_mod_q_add_modEq a hb)).symm
    _ ≡ enc c ((a + c.q - b) % c.q) + enc c b [MOD c.q] := (enc_add_modEq c _ b).symm

end Bfly

/-- Settles O49: a borrow of the subtraction is a < b, and Q is then added back; encoding is linear. -/
theorem butterflyIsSumAndDifference : Obligations.ButterflyIsSumAndDifference := by
  unfold Obligations.ButterflyIsSumAndDifference
  intro c a b ha hb
  have hpos := c.q_pos
  have heq := bfly_eq ha hb
  refine ⟨by rw [heq, sub_mod_q_eq ha hb], ?_, ?_, ?_⟩
  · exact heq ▸ Nat.mod_lt _ hpos
  · exact heq ▸ Nat.mod_lt _ hpos
  · rw [bfly_eq (enc_lt c a) (enc_lt c b), enc_add_mod, enc_sub_mod a hb]

section Command

variable {s : State} {rd ra : Reg}

theorem exec_fbfly_of_canonical (hne : rd ≠ ra) (hrd : s.canonical rd = true) (hra : s.canonical ra = true) :
    exec (.fbfly rd ra) s =
      .next ((s.writeResult rd (some (bfly s.inst (s.val rd) (s.val ra)).1)).writeResult ra
        (some (bfly s.inst (s.val rd) (s.val ra)).2)).retire := by
  have hres : (if s.canonical rd && s.canonical ra then some (bfly s.inst (s.val rd) (s.val ra)) else none) =
      some (bfly s.inst (s.val rd) (s.val ra)) := if_pos (Bool.and_eq_true_iff.2 ⟨hrd, hra⟩)
  simp only [exec, execFbfly, if_neg hne, hres]
  rfl

/-- A command whose arm writes two N-limb values to its two destinations completes with both and draws nothing (R63). -/
theorem completes_with_two_values {i : Instr} {v w : Nat} (hne : rd ≠ ra) (hdests : destsOf i = [rd, ra])
    (h : exec i s = .next ((s.writeResult rd (some v)).writeResult ra (some w)).retire)
    (hv : v < radix s.inst) (hw : w < radix s.inst) :
    ∃ t, exec i s = .next t ∧ Holds t rd v ∧ Holds t ra w ∧ Completes s t [rd, ra] ∧ t.draws = s.draws := by
  refine ⟨_, h, ⟨?_, ?_⟩, ⟨?_, ?_⟩, hdests ▸ exec_next_completes h, rfl⟩
  · exact (State.writeReg_defined_other _ w hne).trans (s.writeReg_defined_same rd v)
  · exact (State.writeReg_val_other _ w hne).trans (s.writeReg_val_of_lt rd v hv)
  · exact (s.writeReg rd v).writeReg_defined_same ra w
  · exact (s.writeReg rd v).writeReg_val_of_lt ra w hw

end Command

/-- Settles O54: both registers are read before either is written, so both results are of the old values, and both are
canonical. -/
theorem fbflyWritesSumAndDifference : Obligations.FbflyWritesSumAndDifference := by
  unfold Obligations.FbflyWritesSumAndDifference
  intro s rd ra hne hrd hra
  have hresidue (x : Nat) : x % s.inst.q < radix s.inst := (Nat.mod_lt x s.inst.q_pos).trans s.inst.q_lt_radix
  have hexec := exec_fbfly_of_canonical hne hrd hra
  rw [bfly_eq ((s.canonical_iff rd).1 hrd).2 ((s.canonical_iff ra).1 hra).2] at hexec
  exact completes_with_two_values hne rfl hexec (hresidue _) (hresidue _)

end Sys2Proof.Machine

/-! Exceptions (60_exceptions.md): what recording an error does with and without an error already recorded (R202), and
that the error fields stop no completion and no acceptance (R203). -/

namespace Sys2Proof.Machine

section ErrorFields

variable (s : State)

/-- A later error sets ERROVF only (R202). -/
theorem State.raiseError_of_err (e : CmdError) (h : s.err = true) : s.raiseError e = { s with errovf := true } :=
  if_pos h

/-- The first error is recorded with its code (R202). -/
theorem State.raiseError_of_no_err (e : CmdError) (h : s.err = false) :
    s.raiseError e = { s with err := true, errcode := e.code } :=
  if_neg (ne_true_of_eq_false h)

variable (err ovf : Bool) (code : BitVec 8)

/-- The state with other error fields: ERR, ERROVF and ERRCODE. -/
def State.withErrors : State := { s with err := err, errovf := ovf, errcode := code }

theorem State.accept_withErrors (i : Instr) :
    (s.withErrors err ovf code).accept i = (s.accept i).withErrors err ovf code := rfl

theorem State.retire_withErrors : (s.withErrors err ovf code).retire = s.retire.withErrors err ovf code := rfl

theorem State.writeResult_withErrors (r : Reg) (res : Option Nat) :
    (s.withErrors err ovf code).writeResult r res = (s.writeResult r res).withErrors err ovf code := by
  cases res <;> rfl

/-- A completion does not depend on the error fields, and keeps them (R203). -/
theorem exec_withErrors {s t : State} {i : Instr} (h : exec i s = .next t) :
    exec i (s.withErrors err ovf code) = .next (t.withErrors err ovf code) := by
  cases i with
  | fmul | fred | ffrom | fmul3 | fmul5 | fmul13 =>
    cases h
    exact congrArg (fun u => Host.Outcome.next u.retire) (s.writeResult_withErrors err ovf code _ _)
  | fbfly rd ra =>
    have hne : rd ≠ ra := by simpa [Instr.wf] using (exec_next_withoutData h).1
    simp only [exec, execFbfly, if_neg hne] at h ⊢
    cases h
    rw [State.writeResult_withErrors, State.writeResult_withErrors, State.retire_withErrors]
    rfl

/-- A legal command is accepted whatever the error fields hold, and its acceptance keeps them (R203). -/
theorem State.cmdWrite_encode_withErrors {i : Instr} (hwf : i.wf = true) (hpend : s.pend = none) :
    (s.withErrors err ovf code).cmdWrite (encode i) = (s.cmdWrite (encode i)).withErrors err ovf code := by
  have hbusy : s.busy = false := by simp [State.busy, hpend]
  have hbusy' : (s.withErrors err ovf code).busy = false := hbusy
  rw [s.cmdWrite_of_ok _ hbusy (decode_encode hwf), State.cmdWrite_of_ok _ _ hbusy' (decode_encode hwf),
    s.accept_withErrors err ovf code i]

end ErrorFields

/-- Settles O13: other error fields commute with a completion and with an acceptance. -/
theorem errorsDoNotStopTheBlock : Obligations.ErrorsDoNotStopTheBlock := by
  unfold Obligations.ErrorsDoNotStopTheBlock
  exact ⟨fun _ _ _ err ovf code h => exec_withErrors err ovf code h,
    fun s _ err ovf code hwf hpend => s.cmdWrite_encode_withErrors err ovf code hwf hpend⟩

/-- Settles O8: recording an error is one of two updates of the error fields. -/
theorem firstErrorIsKept : Obligations.FirstErrorIsKept := by
  unfold Obligations.FirstErrorIsKept
  intro s e
  refine ⟨fun h => ?_, fun h => ?_, ⟨s.raiseError_pend e, s.raiseError_wait e⟩, s.raiseError_busy e,
    s.raiseError_sameRegs e, s.raiseError_inst e, ⟨s.raiseError_inputs e, s.raiseError_reply e⟩, s.raiseError_draws e⟩
  · rw [s.raiseError_of_no_err e h]
    exact ⟨rfl, rfl, rfl⟩
  · rw [s.raiseError_of_err e h]
    exact ⟨rfl, h, rfl⟩

end Sys2Proof.Machine

/-! Reset and hazards (70_reset_and_hazards.md): the reset input (R230), canonical results of in-domain commands (R238),
and the state that the result of a run is read from (R243). -/

namespace Sys2Proof.Machine

section ResetInput

variable {s : State} {rest : List HostInput}

/-- The step that takes the reset input, whether or not a command is pending and due (R230). -/
theorem step_reset (hin : s.inputs = .reset :: rest) : step s = .next (s.withInputs rest).underReset := by
  have hc : s.completing = none := if_pos (s.resetAsserted_of_inputs hin)
  unfold step State.hostCycle
  simp only [hc, hin]

@[simp] theorem State.underReset_statusWord (s : State) : s.underReset.statusWord = 0#64 := by
  simp only [State.statusWord, State.underReset_errcode, State.underReset_errovf, State.underReset_err,
    State.underReset_busy]
  rfl

end ResetInput

/-- Settles O2: the step is the reset, which no completion precedes. -/
theorem resetInputAbandonsThePendingCommand : Obligations.ResetInputAbandonsThePendingCommand := by
  unfold Obligations.ResetInputAbandonsThePendingCommand
  intro s rest hin
  let u : State := s.withInputs rest
  exact ⟨u.underReset, step_reset hin, rfl, rfl, rfl, rfl, rfl, rfl, u.underReset_statusWord,
    u.underReset_limbWritten, rfl, rfl⟩

section CanonicalResults

variable {s t : State} {i : Instr}

/-- What some outcome of a completion satisfies, its one outcome does. -/
theorem exec_next_of_exists {P : State → Prop} (h : exec i s = .next t) (hP : ∃ u, exec i s = .next u ∧ P u) :
    P t := by
  obtain ⟨u, hu, hPu⟩ := hP
  exact Host.Outcome.next.inj (hu.symm.trans h) ▸ hPu

/-- A completion in domain leaves values below Q in its destinations (R238). -/
theorem exec_next_val_lt (hwf : i.wf = true) (hdom : s.inDomain i = true)
    (hfred : ∀ rd, i = .fred rd → s.val rd < 2 * s.inst.q) (h : exec i s = .next t) :
    ∀ r ∈ destsOf i, t.val r < s.inst.q := by
  have hresidue {r : Reg} {x : Nat} (hr : Holds t r (x % s.inst.q)) : t.val r < s.inst.q :=
    hr.2 ▸ Nat.mod_lt x s.inst.q_pos
  cases i with
  | fmul rd ra rb =>
    obtain ⟨hra, hrb⟩ := Bool.and_eq_true_iff.1 hdom
    obtain ⟨-, hlt, -⟩ := exec_next_of_exists h (fmulWritesTheMontgomeryProduct s rd ra rb hra hrb)
    exact List.forall_mem_singleton.2 hlt
  | fred rd =>
    obtain ⟨hholds, -⟩ := exec_next_of_exists h (fredReducesEveryValue s rd hdom)
    rw [← reduce_eq (s.val_lt rd)] at hholds
    exact List.forall_mem_singleton.2 (hholds.2 ▸ reduce_lt (hfred rd rfl))
  | ffrom rd =>
    obtain ⟨-, hlt, -⟩ := exec_next_of_exists h (ffromDecodesInPlace s rd hdom)
    exact List.forall_mem_singleton.2 hlt
  | fmul3 rd =>
    obtain ⟨hmul3, -, -⟩ := smallConstantCommandsMultiply s rd hdom
    exact List.forall_mem_singleton.2 (hresidue (exec_next_of_exists h hmul3).1)
  | fmul5 rd =>
    obtain ⟨-, hmul5, -⟩ := smallConstantCommandsMultiply s rd hdom
    exact List.forall_mem_singleton.2 (hresidue (exec_next_of_exists h hmul5).1)
  | fmul13 rd =>
    obtain ⟨-, -, hmul13⟩ := smallConstantCommandsMultiply s rd hdom
    exact List.forall_mem_singleton.2 (hresidue (exec_next_of_exists h hmul13).1)
  | fbfly rd ra =>
    obtain ⟨hrd, hra⟩ := Bool.and_eq_true_iff.1 hdom
    obtain ⟨hsum, hdifference, -⟩ :=
      exec_next_of_exists h (fbflyWritesSumAndDifference s rd ra (of_decide_eq_true hwf) hrd hra)
    exact List.forall_mem_cons.2 ⟨hresidue hsum, List.forall_mem_singleton.2 (hresidue hdifference)⟩

end CanonicalResults

/-- Settles O57: each destination is written whole, with a value below Q. -/
theorem inDomainResultsAreCanonical : Obligations.InDomainResultsAreCanonical := by
  unfold Obligations.InDomainResultsAreCanonical
  intro s t i hwf hdom hfred h r hr
  have hinst : t.inst = s.inst := exec_next_sameConstants h
  exact (t.canonical_iff r).2 ⟨exec_next_defined h hr, hinst ▸ exec_next_val_lt hwf hdom hfred h r hr⟩

section ReachedStates

variable {s t : State}

/-- What every step keeps holds of every state reached. -/
theorem Reaches.keeps {P : State → Prop} (hstep : ∀ u v, P u → step u = .next v → P v) (hreach : Reaches s t)
    (hs : P s) : P t := by
  obtain ⟨k, hrun⟩ := hreach
  induction k generalizing s with
  | zero =>
    cases hrun
    exact hs
  | succ k ih =>
    cases hnext : Sys2Proof.core.step s with
    | next u =>
      rw [run_succ k s u hnext] at hrun
      exact ih (hstep s u hs hnext) hrun
    | fault | refused => simp [Host.Core.run, hnext] at hrun

theorem Reaches.sameConstants (h : Reaches s t) : SameConstants s t :=
  h.keeps (P := SameConstants s) (fun _ _ hu huv => (step_sameConstants huv).trans hu) rfl

theorem WriteEffect.inputs (h : WriteEffect s t) : t.inputs = s.inputs := by
  cases h with
  | error e => exact s.raiseError_inputs e
  | clear v => exact s.clearErrors_inputs v
  | accept | limb => rfl

/-- A step takes inputs from the front, and puts none back (R69). -/
theorem step_inputs_suffix (h : step s = .next t) : t.inputs <:+ s.inputs := by
  have htail {x : HostInput} {rest : List HostInput} (hin : s.inputs = x :: rest) (ht : t.inputs = rest) :
      t.inputs <:+ s.inputs := by
    rw [hin, ht]
    exact List.suffix_cons x rest
  cases step_effect s t h with
  | complete _ _ _ he => exact (exec_next_sameHost he).1 ▸ List.suffix_rfl
  | quiet => exact List.suffix_rfl
  | idle rest _ hin | reset rest hin => exact htail hin rfl
  | read rest _ _ _ _ _ hin he =>
    obtain ⟨-, -, -, -, -, hinputs⟩ := read_frame s he
    exact htail hin hinputs
  | write rest _ _ _ _ hin he => exact htail hin he.inputs

theorem Reaches.inputs_suffix (h : Reaches s t) : t.inputs <:+ s.inputs :=
  h.keeps (P := fun u => u.inputs <:+ s.inputs) (fun _ _ hu huv => (step_inputs_suffix huv).trans hu) List.suffix_rfl

end ReachedStates

section CommandWrites

variable (s : State)

/-- A write at any port but CMD leaves PEND as it was (R58 to R62). -/
theorem State.hostWrite_pend {off : BitVec 12} (v : Word) (h : portAt s.inst.n off ≠ .cmd) :
    (s.hostWrite off v).pend = s.pend := by
  unfold State.hostWrite
  cases hport : portAt s.inst.n off with
  | id | qinv0 | modulus | reserved => exact s.raiseError_pend _
  | status => exact s.clearErrors_pend v
  | cmd => exact absurd hport h
  | element r j =>
    dsimp only
    split
    · exact s.raiseError_pend _
    · rfl

/-- A write on the bus that is no CMD write leaves PEND as it was (R54, R61). -/
theorem State.busWrite_pend {t : State} {addr : Nat} {bytes : List Byte} (h : s.busWrite addr bytes = .next t)
    (hnot : (HostInput.write addr bytes).isCmdWrite s.inst = false) : t.pend = s.pend := by
  unfold State.busWrite at h
  split at h
  · cases h
  · rename_i off hoff
    split at h
    · rename_i hdef
      obtain ⟨hlen, -⟩ := of_decide_eq_true hdef
      cases h
      refine s.hostWrite_pend _ fun hport => of_decide_eq_false hnot ⟨?_, hlen⟩
      have hstands := portAt_inv (n := s.inst.n) off
      rw [hport] at hstands
      rw [addr_of_windowOffset hoff, show off.toNat = 0x010 from hstands]
    · cases h
      exact s.raiseError_pend _

/-- No command is pending, and the host has no CMD write left (R243). -/
structure State.NoCommandLeft : Prop where
  pend : s.pend = none
  inputs : ∀ x ∈ s.inputs, x.isCmdWrite s.inst = false

/-- Only a CMD write makes a command pending, so without one every step leaves the block quiescent (R61, R243). -/
theorem State.NoCommandLeft.step {s t : State} (hs : s.NoCommandLeft) (h : step s = .next t) : t.NoCommandLeft := by
  obtain ⟨hpend, hinputs⟩ := hs
  refine ⟨?_, fun x hx => ?_⟩
  · cases step_effect s t h with
    | complete _ _ _ he => exact exec_next_pend he
    | quiet | idle => exact hpend
    | reset => rfl
    | read _ _ _ _ _ _ _ he =>
      obtain ⟨-, -, -, hsame, -, -⟩ := read_frame s he
      exact hsame.trans hpend
    | write rest addr bytes _ hc hin =>
      rw [step_write s hc hin] at h
      exact ((s.cycle rest).busWrite_pend h (hinputs _ (hin ▸ List.mem_cons_self))).trans hpend
  · have hinst : t.inst = s.inst := step_sameConstants h
    rw [hinst]
    exact hinputs x ((step_inputs_suffix h).subset hx)

/-- A STATUS read that returned BUSY = 0 leaves no command pending (R30, R71). -/
theorem PollReturnsIdle.pend {p q : State} (h : PollReturnsIdle p q) : q.pend = none := by
  obtain ⟨hperforming, hstep, hidle⟩ := h
  obtain ⟨hc, -, rest, hin⟩ := State.performing_eq_some hperforming
  rw [step_status_read p rest hc hin] at hstep
  cases hstep
  rw [State.answer_reply, wordOfBytes_busBytes, State.statusWord_bit0] at hidle
  exact Option.not_isSome_iff_eq_none.1 (ne_true_of_eq_false hidle)

end CommandWrites

section RunEnd

variable {s p t u : State}

theorem RunEnds.of_run {k : Nat} (hrun : Host.Core.run Sys2Proof.core k s = .next p) (h : RunEnds p t) :
    RunEnds s t := by
  obtain ⟨j, m, hm, hlast⟩ := h
  exact ⟨k + j, m, (run_add k j s p hrun).trans hm, hlast⟩

/-- What follows the step of a poll reaches the end of the run. -/
theorem RunEnds.reaches {q : State} (hstep : step p = .next q) (h : RunEnds p t) : Reaches q t := by
  obtain ⟨k, m, hm, -, ht, -⟩ := h
  exact ⟨k, (run_succ k p q hstep).symm.trans (run_snoc hm ht)⟩

/-- An access that is performed stands in the inputs (R69). -/
theorem State.exists_access_of_performing {m : State} (h : m.performing.isSome = true) :
    ∃ x ∈ m.inputs, x.isAccess = true := by
  obtain ⟨x, hx⟩ := Option.isSome_iff_exists.1 h
  obtain ⟨-, haccess, rest, hin⟩ := State.performing_eq_some hx
  exact ⟨x, hin ▸ List.mem_cons_self, haccess⟩

/-- No access is performed later than the host's last one. -/
theorem le_of_performing {j k : Nat} {m : State} (hend : Host.Core.run Sys2Proof.core (j + 1) s = .next t)
    (hnone : ∀ x ∈ t.inputs, x.isAccess = false) (hm : Host.Core.run Sys2Proof.core k s = .next m)
    (hperforming : m.performing.isSome = true) : k ≤ j := by
  by_contra hlt
  obtain ⟨d, rfl⟩ : ∃ d, k = j + 1 + d := Nat.exists_eq_add_of_le (by omega)
  have hreach : Reaches t m := ⟨d, (run_add (j + 1) d s t hend).symm.trans hm⟩
  obtain ⟨x, hx, haccess⟩ := State.exists_access_of_performing hperforming
  exact absurd haccess (ne_true_of_eq_false (hnone x (hreach.inputs_suffix.subset hx)))

/-- A run has one end: neither of two last accesses is later than the other (R243). -/
theorem RunEnds.unique (ht : RunEnds s t) (hu : RunEnds s u) : u = t := by
  obtain ⟨j, m, hm, hmp, hmt, htnone⟩ := ht
  obtain ⟨k, n, hn, hnp, hnu, hunone⟩ := hu
  have hjt := run_snoc hm hmt
  have hku := run_snoc hn hnu
  obtain rfl : k = j := le_antisymm (le_of_performing hjt htnone hn hnp) (le_of_performing hku hunone hm hmp)
  exact Host.Outcome.next.inj (hku.symm.trans hjt)

theorem RunResult.runEnds (h : RunResult s t) : RunEnds s t := by
  obtain ⟨k, p, q, hrun, -, -, hends⟩ := h
  exact hends.of_run hrun

end RunEnd

/-- Settles O58: from the poll on no command is left, and the result is the run's one end. -/
theorem runResultsAreReadFromAQuiescentState : Obligations.RunResultsAreReadFromAQuiescentState := by
  unfold Obligations.RunResultsAreReadFromAQuiescentState
  intro s t h
  obtain ⟨k, p, q, hrun, hpoll, hnocmd, hends⟩ := h
  have hreach : Reaches q t := hends.reaches hpoll.2.1
  have hleft : t.NoCommandLeft :=
    hreach.keeps (P := State.NoCommandLeft) (fun _ _ hv hvw => hv.step hvw) ⟨hpoll.pend, hnocmd⟩
  have hstart : Reaches s t := .trans ⟨k, hrun⟩ (.head hpoll.2.1 hreach)
  have hend : RunEnds s t := hends.of_run hrun
  obtain ⟨-, -, -, -, -, hnone⟩ := hends
  refine ⟨?_, ?_, hstart.sameConstants, hnone, fun u hu => hend.unique hu.runEnds⟩
  · rw [State.quiescent, hleft.pend]
    rfl
  · rw [t.statusWord_bit0, State.busy, hleft.pend]
    rfl

end Sys2Proof.Machine
